-- ==== Sys2Proof/Syntax.lean ====
section
/-! DEFINITION. The ten commands of the core, one constructor per row of spec/opcode_table.json
(spec/30_encoding.md R83). A command word carries no operand: operands are fixed by the opcode
(spec/30_encoding.md R82). -/

namespace Sys2Proof

/-- A command of the core, in the order of the opcode map (spec/30_encoding.md R83). -/
inductive Instr where
  | subBytes
  | invSubBytes
  | shiftRows
  | invShiftRows
  | mixColumns
  | invMixColumns
  | addRoundKey
  | expandKey
  | encryptBlock
  | decryptBlock
deriving DecidableEq, Repr

end Sys2Proof
end

