-- ==== Sys2Proof/Word.lean ====
section
/-! DEFINITION. The word types of the AES-128 core: a byte (the field element), a 32-bit register,
and a 16-byte register group (spec/00_scope.md R9, R15). -/

namespace Sys2Proof

/-- "8-bit unsigned value, the field element" (spec/41_datapath_primitives.md R120). -/
abbrev Byte := BitVec 8

/-- One 32-bit register or bus data word (spec/00_scope.md R9). -/
abbrev Word := BitVec 32

/-- A 16-byte register group `G0 ‖ G1 ‖ G2 ‖ G3`: word k holds bytes 4k..4k+3, which are column k of
the State matrix (spec/00_scope.md R13, R15). Its bytes are read in Machine/Operands.lean. -/
structure Block where
  w0 : Word
  w1 : Word
  w2 : Word
  w3 : Word
deriving DecidableEq, Repr

/-- The group whose four registers hold 0 (spec/10_state.md R38). -/
def Block.zero : Block := ⟨0, 0, 0, 0⟩

end Sys2Proof
end

