-- ==== Sys2Proof/Config.lean ====
section
/-! DEFINITION. What the spec leaves open: the free value of a read during BUSY, and the two open
parameters `BASE` and `LAT` (spec/00_scope.md R10). -/

namespace Sys2Proof

/-- `ANY`: the value a read of a register in the write set of the command in flight returns, "a fresh
draw at each read" (spec/20_memory.md R54, spec/40_command_execution.md R108). The argument numbers
the draws (the model's own counter). Nothing is known of the values: log entry 2. -/
opaque Config.anyRead : Nat → Word

/-- The 4 KiB page the platform places the register window on: log entry 9. -/
opaque Config.basePage : Nat

/-- `BASE`, "4096-byte aligned; platform-defined" (spec/00_scope.md R10, spec/20_memory.md R65). -/
def Config.base : Nat := 4096 * Config.basePage

/-- One less than the latency of a command: log entry 8. -/
opaque Config.latencyLessOne : Instr → Nat

/-- `LAT(op)`, "integer ≥ 1, finite, a function of `op` alone (never of data)" (spec/00_scope.md R10).
The model represents no time and no rule reads it (spec/40_command_execution.md R110). -/
def Config.latency (i : Instr) : Nat := Config.latencyLessOne i + 1

/-- The reference values of `LAT`, informative (spec/44_block_cipher.md R186). -/
def Config.referenceLatency (i : Instr) : Nat :=
  match i with
  | .subBytes => 1
  | .invSubBytes => 1
  | .shiftRows => 1
  | .invShiftRows => 1
  | .mixColumns => 1
  | .invMixColumns => 1
  | .addRoundKey => 1
  | .expandKey => 10
  | .encryptBlock => 11
  | .decryptBlock => 21

end Sys2Proof
end

