-- ==== Sys2Proof/Decode.lean ====
section
/-! DEFINITION. The command word: its fields, the total decoder, and the encoder
(spec/30_encoding.md R80 to R88). -/

namespace Sys2Proof

/-- Why a word decodes to `Illegal` (spec/30_encoding.md R85, R86). -/
inductive IllegalWord where
  /-- RSV is not 0, whatever OP is (R86). -/
  | reservedBitsSet
  /-- OP is 0x0 or 0xB..0xF (R85). -/
  | reservedOp
deriving DecidableEq, Repr

/-- OP, bits 3:0 of the command word (spec/30_encoding.md R81). -/
def opField (v : Word) : BitVec 4 := v.extractLsb' 0 4

/-- RSV, bits 31:4 of the command word (spec/30_encoding.md R81). -/
def rsvField (v : Word) : BitVec 28 := v.extractLsb' 4 28

/-- The opcode map read from OP to command (spec/30_encoding.md R83, R84). -/
def instrOfOp (op : BitVec 4) : Except IllegalWord Instr :=
  match op with
  | 0x1#4 => .ok .subBytes
  | 0x2#4 => .ok .invSubBytes
  | 0x3#4 => .ok .shiftRows
  | 0x4#4 => .ok .invShiftRows
  | 0x5#4 => .ok .mixColumns
  | 0x6#4 => .ok .invMixColumns
  | 0x7#4 => .ok .addRoundKey
  | 0x8#4 => .ok .expandKey
  | 0x9#4 => .ok .encryptBlock
  | 0xA#4 => .ok .decryptBlock
  | _ => .error .reservedOp

/-- `Decode`, total on all 2^32 words: RSV is checked first, then OP (spec/30_encoding.md R84). -/
def decode (v : Word) : Except IllegalWord Instr :=
  if rsvField v ≠ 0 then .error .reservedBitsSet else instrOfOp (opField v)

/-- The opcode map read from command to OP (spec/30_encoding.md R83). -/
def opOf (i : Instr) : BitVec 4 :=
  match i with
  | .subBytes => 0x1#4
  | .invSubBytes => 0x2#4
  | .shiftRows => 0x3#4
  | .invShiftRows => 0x4#4
  | .mixColumns => 0x5#4
  | .invMixColumns => 0x6#4
  | .addRoundKey => 0x7#4
  | .expandKey => 0x8#4
  | .encryptBlock => 0x9#4
  | .decryptBlock => 0xA#4

/-- The command word of a command: "every legal command word is `zext_32(OP)`" (spec/30_encoding.md R83). -/
def encode (i : Instr) : Word := (opOf i).setWidth 32

/-- The 32-bit command word whose low `nbits` bits are those of `w` and whose other bits are 0. -/
def tableWord (nbits w : Nat) : Word := BitVec.ofNat 32 (w % 2 ^ nbits)

/-- What the decoder reads from the bits of an opcode-table row. The command word is one 32-bit bus
word (R80), so there is no byte or word order to lay out. -/
def decodeTableWord (nbits w : Nat) : Option Instr :=
  match decode (tableWord nbits w) with
  | .ok i => some i
  | .error _ => none

end Sys2Proof
end

