-- ==== Sys2Proof/Machine/BusTypes.lean ====
section
/-! DEFINITION. The bus as the model sees it: register names, host accesses, answers, the steps of a
host program, and the turns of the three agents (spec/20_memory.md R51 to R53, spec/30_encoding.md
R89 and R90, spec/00_scope.md R17). -/

namespace Sys2Proof.Machine

/-- The registers of the map (spec/20_memory.md R51). -/
inductive Reg where
  | ctrl
  | cmd
  | status
  | key (k : Fin 4)
  | state (k : Fin 4)
  | rkin (k : Fin 4)
  | rk (i : Fin 44)
deriving DecidableEq, Repr

/-- `kind` of a host access (spec/20_memory.md R53). -/
inductive AccessKind where
  | read
  | write
deriving DecidableEq, Repr

/-- `req_size`: "0 = 1 byte, 1 = 2 bytes, 2 = 4 bytes, 3 = reserved" (spec/20_memory.md R52). -/
inductive AccessSize where
  | one
  | two
  | four
  | reserved
deriving DecidableEq, Repr

/-- A host access `(kind, off, n, wdata)` (spec/20_memory.md R53). -/
structure Access where
  kind : AccessKind
  off : BitVec 12
  size : AccessSize
  wdata : Word
deriving DecidableEq, Repr

/-- The causes of a bus error (spec/20_memory.md R54, R55). -/
inductive BusError where
  /-- Not a 4-byte access at an offset that is a multiple of 4 (R56). -/
  | misalignedOrNarrow
  /-- An admitted access to an offset outside the map (R58). -/
  | unmapped
  /-- A write to RK[0..43] (R59). -/
  | readOnly
deriving DecidableEq, Repr

/-- The answer the host receives to one access (spec/20_memory.md R53, R57). -/
inductive Answer where
  /-- `ok` with read data. -/
  | data (v : Word)
  /-- `ok` to a write. -/
  | ok
  /-- The bus error response; the run records it as a fault (spec/92_eei_decisions.md D32). -/
  | busError (e : BusError)
  /-- No response: the access was outstanding when reset asserted; the run records it as a fault
  (spec/70_reset_and_hazards.md R232). -/
  | lost
deriving DecidableEq, Repr

/-- One line of a host program still to run (spec/30_encoding.md R89, R90; log entry 1). -/
inductive HostOp where
  /-- `W off, v` or `R off` (or a narrow or misaligned access): one bus access. -/
  | access (a : Access)
  /-- `WAIT`: read STATUS, and again while bit 0 (BUSY) of the read data is 1. -/
  | wait
  /-- One word of `MOVRK`: read `src`, then write the value read to `dst`. -/
  | move (src dst : BitVec 12)
deriving DecidableEq, Repr

/-- Which agent takes the next step, or what the `rst_n` pin does (spec/00_scope.md R17,
spec/20_memory.md R67; log entry 1). -/
inductive Turn where
  /-- The host makes its next access. -/
  | host
  /-- The engine completes the command in flight. -/
  | engine
  /-- `rst_n` falls. -/
  | resetAssert
  /-- `rst_n` falls while the host's next access is outstanding (spec/70_reset_and_hazards.md R232). -/
  | resetLosingAccess
  /-- `rst_n` rises. -/
  | resetRelease
deriving DecidableEq, Repr

end Sys2Proof.Machine
end

