-- ==== Sys2Proof/Machine/State.lean ====
section
/-! DEFINITION. The state of the machine: the core's registers and engine phase
(spec/10_state.md R20), and the model's own fields for the host, the interleaving and the pins. -/

namespace Sys2Proof.Machine

/-- The engine phase: no command in flight, or `BUSY(op)` (spec/10_state.md R23). -/
inductive Phase where
  | idle
  | busy (c : Instr)
deriving DecidableEq, Repr

/-- The architectural state of the core: "exactly the following. Nothing else is state"
(spec/10_state.md R20). CMD holds no value (R25), `irq` is a function of this state (R36), and
STATUS.BUSY is the phase (R23, R26; log entry 7). -/
structure Regs where
  /-- The two defined bits of CTRL: bit 0 IE_DONE, bit 1 IE_ERR (R24). -/
  ctrl : BitVec 2
  /-- The engine phase and the command in flight; STATUS.BUSY (R23, R26, R37). -/
  phase : Phase
  /-- STATUS.DONE (R27). -/
  done : Bool
  /-- STATUS.ERR (R28). -/
  err : Bool
  /-- STATUS.RKV, "round keys valid" (R29). -/
  rkv : Bool
  /-- STATUS.ERRCODE (R30). -/
  errCode : BitVec 4
  /-- KEY0..KEY3 (R31). -/
  key : Block
  /-- STATE0..STATE3 (R32). -/
  state : Block
  /-- RKIN0..RKIN3 (R33). -/
  rkin : Block
  /-- RK[0..43] (R34). -/
  rk : Vector Word 44
deriving DecidableEq, Repr

/-- The machine: the core's registers, and the MODEL'S OWN fields that stand for its surroundings
(the host agent, the interleaving of the agents, the reset pin, the draws of `ANY`). -/
structure State extends Regs where
  /-- The level of the `rst_n` pin, `false` while reset is asserted (spec/20_memory.md R52). -/
  rstN : Bool
  /-- The host's program lines still to run, the next one first (spec/30_encoding.md R89; log entry 1). -/
  host : List HostOp
  /-- Whose turn comes next, the next one first (spec/20_memory.md R67; log entry 1). -/
  sched : List Turn
  /-- The answers the host has received, the latest first (spec/40_command_execution.md R112). -/
  log : List Answer
  /-- How many `ANY` values have been drawn (log entry 2). -/
  draws : Nat
deriving DecidableEq, Repr

/-- Why a step stops with a fault. -/
inductive Fault where
  /-- A host access with the reserved `req_size` 3, for which the spec gives no effect
  (spec/20_memory.md R52). Raised by `busAccess`. Safe: the machine stops (log entry 4). -/
  | reservedAccessSize
deriving DecidableEq, Repr

/-- Why a step refuses an instruction. -/
inductive Refusal where
  /-- Raised by an arm of `exec` that has no meaning yet; no arm of this model is left so. Safe. -/
  | notModelled (mnemonic : String)
deriving DecidableEq, Repr

/-- The reset values of the core: every register 0, the phase IDLE (spec/10_state.md R38). -/
def Regs.reset : Regs where
  ctrl := 0
  phase := .idle
  done := false
  err := false
  rkv := false
  errCode := 0
  key := Block.zero
  state := Block.zero
  rkin := Block.zero
  rk := Vector.replicate 44 0

/-- The machine right after reset: the core at its reset values and `rst_n` released (spec/10_state.md
R38, spec/70_reset_and_hazards.md R230). The model's own fields are empty: no host program, no
schedule, no answers, no draws (log entry 6). -/
def State.reset : State where
  toRegs := Regs.reset
  rstN := true
  host := []
  sched := []
  log := []
  draws := 0

end Sys2Proof.Machine
end

