-- ==== Sys2Proof/Machine/Operands.lean ====
section
/-! DEFINITION. How operands are read from registers: the byte and word views of a register group, the
schedule words, and the registers each command reads and writes (spec/00_scope.md R13 to R16,
spec/40_command_execution.md R106). -/

namespace Sys2Proof.Machine

/-- The byte of a register at position `j` = 0..3, position 0 in bits 31:24 (spec/20_memory.md R61). -/
def wordByte (w : Word) (j : Nat) : Byte := w.extractLsb' (24 - 8 * (j % 4)) 8

/-- `a0 ‖ a1 ‖ a2 ‖ a3` (spec/00_scope.md R16). -/
def wordOfBytes (a0 a1 a2 a3 : Byte) : Word := a0 ++ a1 ++ a2 ++ a3

/-- Register k of a group, k = 0..3. -/
def blockWord (b : Block) (k : Nat) : Word :=
  match k with
  | 0 => b.w0
  | 1 => b.w1
  | 2 => b.w2
  | _ => b.w3

/-- The group with register k, k = 0..3, replaced. -/
def setBlockWord (b : Block) (k : Nat) (v : Word) : Block :=
  match k with
  | 0 => { b with w0 := v }
  | 1 => { b with w1 := v }
  | 2 => { b with w2 := v }
  | _ => { b with w3 := v }

/-- `byte(G, i)`, i = 0..15 (spec/00_scope.md R15). It is the State matrix entry at row `i mod 4`,
column `i div 4` (R13). -/
def blockByte (b : Block) (i : Nat) : Byte := wordByte (blockWord b (i / 4)) i

/-- The 16-byte block whose byte i is `f i` (spec/00_scope.md R12, R15). -/
def blockOfBytes (f : Nat → Byte) : Block where
  w0 := wordOfBytes (f 0) (f 1) (f 2) (f 3)
  w1 := wordOfBytes (f 4) (f 5) (f 6) (f 7)
  w2 := wordOfBytes (f 8) (f 9) (f 10) (f 11)
  w3 := wordOfBytes (f 12) (f 13) (f 14) (f 15)

/-- The block a hex string of 32 digits names: the four words in order (spec/00_scope.md R12, R15). -/
def blockOfHex (h : BitVec 128) : Block where
  w0 := h.extractLsb' 96 32
  w1 := h.extractLsb' 64 32
  w2 := h.extractLsb' 32 32
  w3 := h.extractLsb' 0 32

/-- `G0 ‖ G1 ‖ G2 ‖ G3`, the 128-bit value of a group (spec/00_scope.md R15). -/
def blockBits (b : Block) : BitVec 128 := b.w0 ++ b.w1 ++ b.w2 ++ b.w3

/-- Word i of a key schedule, i = 0..43 (spec/00_scope.md R12, R16). No rule reads a higher index. -/
def scheduleWord (w : Vector Word 44) (i : Nat) : Word := w.toArray.toList.getD i 0

/-- `RoundKey(w, r)`, r = 0..10: words 4r..4r+3 (spec/43_key_expansion.md R160). -/
def roundKey (w : Vector Word 44) (r : Nat) : Block where
  w0 := scheduleWord w (4 * r)
  w1 := scheduleWord w (4 * r + 1)
  w2 := scheduleWord w (4 * r + 2)
  w3 := scheduleWord w (4 * r + 3)

/-- STATE is in the write set of every command but EXPAND_KEY (spec/40_command_execution.md R106). -/
def writesState (c : Instr) : Bool :=
  match c with
  | .subBytes => true
  | .invSubBytes => true
  | .shiftRows => true
  | .invShiftRows => true
  | .mixColumns => true
  | .invMixColumns => true
  | .addRoundKey => true
  | .expandKey => false
  | .encryptBlock => true
  | .decryptBlock => true

/-- RK[0..43] and RKV are in the write set of the three commands that write the schedule
(spec/40_command_execution.md R106). -/
def writesSchedule (c : Instr) : Bool :=
  match c with
  | .subBytes => false
  | .invSubBytes => false
  | .shiftRows => false
  | .invShiftRows => false
  | .mixColumns => false
  | .invMixColumns => false
  | .addRoundKey => false
  | .expandKey => true
  | .encryptBlock => true
  | .decryptBlock => true

/-- `in_write_set(STATE)`: a command that writes STATE is in flight (spec/40_command_execution.md R106). -/
def stateInWriteSet (r : Regs) : Bool :=
  match r.phase with
  | .idle => false
  | .busy c => writesState c

/-- `in_write_set(RK)`: a command that writes RK is in flight (spec/40_command_execution.md R106). -/
def scheduleInWriteSet (r : Regs) : Bool :=
  match r.phase with
  | .idle => false
  | .busy c => writesSchedule c

end Sys2Proof.Machine
end

