-- ==== Sys2Proof/Machine/Datapath.lean ====
section
/-! DEFINITION. The datapath primitives: GF(2^8) arithmetic, the S-boxes, the round constants and the word
functions (spec/41_datapath_primitives.md R120 to R133). They are constants and combinational functions,
not state (R132). -/

namespace Sys2Proof.Machine

/-- Addition in GF(2^8), which is also subtraction (spec/41_datapath_primitives.md R121). -/
def gadd (a b : Byte) : Byte := a ^^^ b

/-- Multiplication by {02} modulo 0x11B (spec/41_datapath_primitives.md R122). -/
def xtime (a : Byte) : Byte :=
  if a.getLsbD 7 then (a <<< 1) ^^^ 0x1B#8 else a <<< 1

/-- One turn of the loop of `gmul` for bit k of `b`: the product so far and the doubled `a`
(spec/41_datapath_primitives.md R123). -/
def gmulTurn (b : Byte) (pa : Byte × Byte) (k : Nat) : Byte × Byte :=
  (if b.getLsbD k then pa.1 ^^^ pa.2 else pa.1, xtime pa.2)

/-- Multiplication in GF(2^8), by repeated doubling (spec/41_datapath_primitives.md R123). -/
def gmul (a b : Byte) : Byte :=
  ([0, 1, 2, 3, 4, 5, 6, 7].foldl (gmulTurn b) (0#8, a)).1

/-- `a^n`, the product of n copies of a (spec/41_datapath_primitives.md R124). -/
def gpow (a : Byte) (n : Nat) : Byte :=
  match n with
  | 0 => 1#8
  | m + 1 => gmul a (gpow a m)

/-- The square of a field element. -/
def gsquare (a : Byte) : Byte := gmul a a

/-- The multiplicative inverse `a^254` = a^2 · a^4 · … · a^128, with `inverse(0) = 0`; any method of
computing it is allowed (spec/41_datapath_primitives.md R124). -/
def ginverse (a : Byte) : Byte :=
  let a2 := gsquare a
  let a4 := gsquare a2
  let a8 := gsquare a4
  let a16 := gsquare a8
  let a32 := gsquare a16
  let a64 := gsquare a32
  let a128 := gsquare a64
  gmul a2 (gmul a4 (gmul a8 (gmul a16 (gmul a32 (gmul a64 a128)))))

/-- `AffineTransform` (spec/41_datapath_primitives.md R125). -/
def affine (s : Byte) : Byte :=
  s ^^^ s.rotateLeft 1 ^^^ s.rotateLeft 2 ^^^ s.rotateLeft 3 ^^^ s.rotateLeft 4 ^^^ 0x63#8

/-- The S-box table, one row of 16 entries per high nibble, the entry of column 0 in the most
significant byte (spec/41_datapath_primitives.md R126; log entry 11). -/
def sboxRows : List (BitVec 128) :=
  [0x637c777bf26b6fc53001672bfed7ab76#128,
   0xca82c97dfa5947f0add4a2af9ca472c0#128,
   0xb7fd9326363ff7cc34a5e5f171d83115#128,
   0x04c723c31896059a071280e2eb27b275#128,
   0x09832c1a1b6e5aa0523bd6b329e32f84#128,
   0x53d100ed20fcb15b6acbbe394a4c58cf#128,
   0xd0efaafb434d338545f9027f503c9fa8#128,
   0x51a3408f929d38f5bcb6da2110fff3d2#128,
   0xcd0c13ec5f974417c4a77e3d645d1973#128,
   0x60814fdc222a908846eeb814de5e0bdb#128,
   0xe0323a0a4906245cc2d3ac629195e479#128,
   0xe7c8376d8dd54ea96c56f4ea657aae08#128,
   0xba78252e1ca6b4c6e8dd741f4bbd8b8a#128,
   0x703eb5664803f60e613557b986c11d9e#128,
   0xe1f8981169d98e949b1e87e9ce5528df#128,
   0x8ca1890dbfe6426841992d0fb054bb16#128]

/-- The inverse S-box table, in the same layout (spec/41_datapath_primitives.md R127; log entry 11). -/
def invSboxRows : List (BitVec 128) :=
  [0x52096ad53036a538bf40a39e81f3d7fb#128,
   0x7ce339829b2fff87348e4344c4dee9cb#128,
   0x547b9432a6c2233dee4c950b42fac34e#128,
   0x082ea16628d924b2765ba2496d8bd125#128,
   0x72f8f66486689816d4a45ccc5d65b692#128,
   0x6c704850fdedb9da5e154657a78d9d84#128,
   0x90d8ab008cbcd30af7e45805b8b34506#128,
   0xd02c1e8fca3f0f02c1afbd0301138a6b#128,
   0x3a9111414f67dcea97f2cfcef0b4e673#128,
   0x96ac7422e7ad3585e2f937e81c75df6e#128,
   0x47f11a711d29c5896fb7620eaa18be1b#128,
   0xfc563e4bc6d279209adbc0fe78cd5af4#128,
   0x1fdda8338807c731b11210592780ec5f#128,
   0x60517fa919b54a0d2de57a9f93c99cef#128,
   0xa0e03b4dae2af5b0c8ebbb3c83539961#128,
   0x172b047eba77d626e169146355210c7d#128]

/-- The entry of a table at byte x: row `x[7:4]`, column `x[3:0]`. -/
def tableEntry (rows : List (BitVec 128)) (x : Byte) : Byte :=
  (rows.getD (x.toNat / 16) 0).extractLsb' (120 - 8 * (x.toNat % 16)) 8

/-- `SBOX[x]` (spec/41_datapath_primitives.md R126). -/
def sbox (x : Byte) : Byte := tableEntry sboxRows x

/-- `INVSBOX[x]` (spec/41_datapath_primitives.md R127). -/
def invSbox (x : Byte) : Byte := tableEntry invSboxRows x

/-- `RCON[j]`, j = 1..10 (spec/41_datapath_primitives.md R129). No other index exists or is read; the
last line only makes the function total (log entry 12). -/
def rcon (j : Nat) : Byte :=
  match j with
  | 1 => 0x01#8
  | 2 => 0x02#8
  | 3 => 0x04#8
  | 4 => 0x08#8
  | 5 => 0x10#8
  | 6 => 0x20#8
  | 7 => 0x40#8
  | 8 => 0x80#8
  | 9 => 0x1B#8
  | 10 => 0x36#8
  | _ => 0x00#8

/-- `RotWord(w) = rotl_32(w, 8)` (spec/41_datapath_primitives.md R130). -/
def rotWord (w : Word) : Word := w.rotateLeft 8

/-- `SubWord(w)`: the S-box on each of the 4 bytes (spec/41_datapath_primitives.md R131). -/
def subWord (w : Word) : Word :=
  wordOfBytes (sbox (wordByte w 0)) (sbox (wordByte w 1)) (sbox (wordByte w 2)) (sbox (wordByte w 3))

end Sys2Proof.Machine
end

