-- ==== Sys2Proof/Machine/Flags.lean ====
section
/-! DEFINITION. The status and interrupt flags: the words read at CTRL and STATUS, the W1C write of
STATUS, what acceptance and completion do to the flags, and `irq` (spec/10_state.md R24 to R30, R36). -/

namespace Sys2Proof.Machine

/-- STATUS.BUSY: 1 exactly when a command is in flight (spec/10_state.md R23, R26). -/
def isBusy (r : Regs) : Bool :=
  match r.phase with
  | .idle => false
  | .busy _ => true

/-- CTRL.IE_DONE, bit 0 (spec/10_state.md R24). -/
def ieDone (r : Regs) : Bool := r.ctrl.getLsbD 0

/-- CTRL.IE_ERR, bit 1 (spec/10_state.md R24). -/
def ieErr (r : Regs) : Bool := r.ctrl.getLsbD 1

/-- The word read at CTRL: `zext_32(CTRL[1:0])` (spec/20_memory.md R54, R60). -/
def ctrlWord (r : Regs) : Word := r.ctrl.setWidth 32

/-- The word read at STATUS: `zext_32(ERRCODE ‖ RKV ‖ ERR ‖ DONE ‖ BUSY)` (spec/20_memory.md R54, R60). -/
def statusWord (r : Regs) : Word :=
  (r.errCode ++ BitVec.ofBool r.rkv ++ BitVec.ofBool r.err ++ BitVec.ofBool r.done ++
    BitVec.ofBool (isBusy r)).setWidth 32

/-- A write of CTRL takes bits 1:0 and ignores the rest (spec/20_memory.md R55, R60). -/
def writeCtrl (v : Word) (r : Regs) : Regs := { r with ctrl := v.extractLsb' 0 2 }

/-- A write of STATUS: bit 1 clears DONE, bit 2 clears ERR and ERRCODE, the other bits are ignored
(spec/20_memory.md R55; spec/10_state.md R27, R28, R30). -/
def writeStatus (v : Word) (r : Regs) : Regs :=
  { r with
    done := if v.getLsbD 1 then false else r.done
    err := if v.getLsbD 2 then false else r.err
    errCode := if v.getLsbD 2 then 0 else r.errCode }

/-- The flags at acceptance of a command: BUSY 1, DONE 0, and RKV 0 for a command that writes the
schedule; ERR and ERRCODE are left (spec/40_command_execution.md R101). -/
def acceptFlags (c : Instr) (r : Regs) : Regs :=
  { r with
    phase := .busy c
    done := false
    rkv := if writesSchedule c then false else r.rkv }

/-- The flags at completion: the phase IDLE, BUSY 0, DONE 1 (spec/40_command_execution.md R104). -/
def completeFlags (r : Regs) : Regs := { r with phase := .idle, done := true }

/-- `irq = (DONE & IE_DONE) | (ERR & IE_ERR)` (spec/10_state.md R36, spec/60_exceptions.md R210). -/
def irq (r : Regs) : Bool := (r.done && ieDone r) || (r.err && ieErr r)

end Sys2Proof.Machine
end

