-- ==== Sys2Proof/Machine/Ops.lean ====
section
/-! DEFINITION. The named operations on the machine: recording a command error (the core's only
exception, spec/60_exceptions.md R200, R201), the events of a command's life, the reset of the core,
the answers to the host, and writing a register group. -/

namespace Sys2Proof.Machine

/-- The command errors (spec/60_exceptions.md R202). -/
inductive CmdError where
  | illegalCmd
  | busyViolation
deriving DecidableEq, Repr

/-- The code of a command error; code 0 is NONE and 3..15 are never raised (spec/60_exceptions.md R202). -/
def errorCode (e : CmdError) : BitVec 4 :=
  match e with
  | .illegalCmd => 0x1#4
  | .busyViolation => 0x2#4

/-- `raise CmdError(code)`: the first error since ERR was last 0 is kept in ERRCODE, ERR is set, nothing
else changes. It is all there is of taking an exception: no state is saved, nothing redirects control,
there is no return (spec/60_exceptions.md R200, R201, R212, R213). -/
def raiseCmdError (e : CmdError) (r : Regs) : Regs :=
  { r with
    errCode := if r.err then r.errCode else errorCode e
    err := true }

/-- The next event in the life of command `c` (spec/40_command_execution.md R100, log entry 5): accepted
when no command is in flight (R101), completed with its whole effect in one step when `c` itself is in
flight (R104), turned away when another command is (R103). -/
def commandEvent (c : Instr) (effect : Regs → Regs) (r : Regs) : Regs :=
  match r.phase with
  | .idle => acceptFlags c r
  | .busy d => if d = c then completeFlags (effect r) else raiseCmdError .busyViolation r

/-- The outcome of the next event in the life of command `c`: no command can fail
(spec/40_command_execution.md R104, R110). -/
def runCommand (c : Instr) (effect : Regs → Regs) (s : State) : Host.Outcome State Fault Refusal :=
  .next { s with toRegs := commandEvent c effect s.toRegs }

/-- A KEY write that is not discarded also clears RKV (spec/10_state.md R29, R31). -/
def writeKeyWord (k : Fin 4) (v : Word) (r : Regs) : Regs :=
  { r with key := setBlockWord r.key k v, rkv := false }

/-- A STATE write that is not discarded (spec/10_state.md R32). -/
def writeStateWord (k : Fin 4) (v : Word) (r : Regs) : Regs :=
  { r with state := setBlockWord r.state k v }

/-- An RKIN write that is not discarded (spec/10_state.md R33). -/
def writeRkinWord (k : Fin 4) (v : Word) (r : Regs) : Regs :=
  { r with rkin := setBlockWord r.rkin k v }

/-- A write to KEY, STATE, RKIN or CMD while BUSY = 1 is discarded and recorded as BUSY_VIOLATION
(spec/40_command_execution.md R103, R107); else it is made. -/
def guardBusy (write : Regs → Regs) (r : Regs) : Regs :=
  if isBusy r then raiseCmdError .busyViolation r else write r

/-- The host receives an answer. -/
def answer (a : Answer) (s : State) : State := { s with log := a :: s.log }

/-- An outcome with a function applied to its next state. -/
def mapNext (f : State → State) (o : Host.Outcome State Fault Refusal) :
    Host.Outcome State Fault Refusal :=
  match o with
  | .next s => .next (f s)
  | .fault e => .fault e
  | .refused e => .refused e

/-- While `rst_n` = 0 every piece of the core's state takes its reset value (spec/70_reset_and_hazards.md
R230). The host's program, its answers and the draw counter are not the core's. -/
def resetRegs (s : State) : State := { s with toRegs := Regs.reset }

/-- `rst_n` falls: the command in flight, if any, is abandoned (spec/70_reset_and_hazards.md R230, R231). -/
def assertReset (s : State) : State := { s with toRegs := Regs.reset, rstN := false }

/-- `rst_n` rises: at the first edge after it every piece of state takes its reset value
(spec/70_reset_and_hazards.md R230). A pin that is high already does not rise. -/
def releaseReset (s : State) : State :=
  if s.rstN then s else { s with toRegs := Regs.reset, rstN := true }

/-- The host's outstanding access is lost as `rst_n` falls: it gets no response. A pin that is low already
does not fall, and an access made while it is low waits (spec/70_reset_and_hazards.md R232). -/
def loseAccess (s : State) : State :=
  match s.host with
  | [] => s
  | _ :: rest => if s.rstN then answer .lost { s with host := rest } else s

end Sys2Proof.Machine
end

