-- ==== Sys2Proof/Machine/KeyExpansion.lean ====
section
/-! DEFINITION. The key schedule and EXPAND_KEY (spec/43_key_expansion.md R160 to R163). -/

namespace Sys2Proof.Machine

/-- `RCON[j] ‖ 0x00 ‖ 0x00 ‖ 0x00` (spec/43_key_expansion.md R160). -/
def rconWord (j : Nat) : Word := wordOfBytes (rcon j) 0 0 0

/-- Schedule word i ≥ 4 from `w[i-4]` and `w[i-1]` (spec/43_key_expansion.md R160). -/
def nextWord (i : Nat) (fourBack oneBack : Word) : Word :=
  fourBack ^^^ (if i % 4 = 0 then subWord (rotWord oneBack) ^^^ rconWord (i / 4) else oneBack)

/-- The first 4 + n words of the schedule, the latest first (spec/43_key_expansion.md R160). -/
def scheduleLatestFirst (key : Block) (n : Nat) : List Word :=
  match n with
  | 0 => [key.w3, key.w2, key.w1, key.w0]
  | m + 1 =>
    let w := scheduleLatestFirst key m
    nextWord (m + 4) (w.getD 3 0) (w.getD 0 0) :: w

/-- Each turn of the loop adds one word. -/
theorem scheduleLatestFirst_length (key : Block) (n : Nat) :
    (scheduleLatestFirst key n).length = n + 4 := by
  induction n with
  | zero => rfl
  | succ m ih => simp [scheduleLatestFirst, ih]

/-- `ExpandKey(key)`, the 44 words in order (spec/43_key_expansion.md R160). -/
def expandKey (key : Block) : Vector Word 44 :=
  ⟨(scheduleLatestFirst key 40).reverse.toArray, by simp [scheduleLatestFirst_length]⟩

/-- EXPAND_KEY: `RK <- ExpandKey(KEY); RKV <- 1` (spec/43_key_expansion.md R161). -/
def execExpandKey (s : State) : Host.Outcome State Fault Refusal :=
  runCommand .expandKey (fun r => { r with rk := expandKey r.key, rkv := true }) s

end Sys2Proof.Machine
end

