-- ==== Sys2Proof/Machine/RoundTransforms.lean ====
section
/-! DEFINITION. The seven State commands: SubBytes, ShiftRows, MixColumns, their inverses, and
AddRoundKey (spec/42_round_transforms.md R140 to R147). -/

namespace Sys2Proof.Machine

/-- `SubBytes` (spec/42_round_transforms.md R141). -/
def subBytes (b : Block) : Block := blockOfBytes fun i => sbox (blockByte b i)

/-- `InvSubBytes` (spec/42_round_transforms.md R142). -/
def invSubBytes (b : Block) : Block := blockOfBytes fun i => invSbox (blockByte b i)

/-- `ShiftRows`: the byte at row r, column c comes from column `(c + r) mod 4`
(spec/42_round_transforms.md R143). -/
def shiftRows (b : Block) : Block :=
  blockOfBytes fun i => blockByte b (i % 4 + 4 * ((i / 4 + i % 4) % 4))

/-- `InvShiftRows`: the byte at row r, column c comes from column `(c - r) mod 4`
(spec/42_round_transforms.md R144). -/
def invShiftRows (b : Block) : Block :=
  blockOfBytes fun i => blockByte b (i % 4 + 4 * ((i / 4 + (4 - i % 4)) % 4))

/-- The product of each column with the circulant matrix whose coefficient at row r, column j is
`m[(j - r) mod 4]`, `m` = [m0, m1, m2, m3]: the sum, for row r, starts on the diagonal
(spec/42_round_transforms.md R145, R146). -/
def mulColumns (m0 m1 m2 m3 : Byte) (b : Block) : Block :=
  blockOfBytes fun i =>
    let a := fun d => blockByte b (4 * (i / 4) + (i % 4 + d) % 4)
    gmul m0 (a 0) ^^^ gmul m1 (a 1) ^^^ gmul m2 (a 2) ^^^ gmul m3 (a 3)

/-- `MixColumns`, MC = [0x02, 0x03, 0x01, 0x01] (spec/42_round_transforms.md R145). -/
def mixColumns (b : Block) : Block := mulColumns 0x02#8 0x03#8 0x01#8 0x01#8 b

/-- `InvMixColumns`, IMC = [0x0E, 0x0B, 0x0D, 0x09] (spec/42_round_transforms.md R146). -/
def invMixColumns (b : Block) : Block := mulColumns 0x0E#8 0x0B#8 0x0D#8 0x09#8 b

/-- `AddRoundKey` (spec/42_round_transforms.md R147). -/
def addRoundKey (b k : Block) : Block := blockOfBytes fun i => blockByte b i ^^^ blockByte k i

/-- SUB_BYTES: `STATE <- SubBytes(STATE)` (spec/42_round_transforms.md R141). -/
def execSubBytes (s : State) : Host.Outcome State Fault Refusal :=
  runCommand .subBytes (fun r => { r with state := subBytes r.state }) s

/-- INV_SUB_BYTES: `STATE <- InvSubBytes(STATE)` (spec/42_round_transforms.md R142). -/
def execInvSubBytes (s : State) : Host.Outcome State Fault Refusal :=
  runCommand .invSubBytes (fun r => { r with state := invSubBytes r.state }) s

/-- SHIFT_ROWS: `STATE <- ShiftRows(STATE)` (spec/42_round_transforms.md R143). -/
def execShiftRows (s : State) : Host.Outcome State Fault Refusal :=
  runCommand .shiftRows (fun r => { r with state := shiftRows r.state }) s

/-- INV_SHIFT_ROWS: `STATE <- InvShiftRows(STATE)` (spec/42_round_transforms.md R144). -/
def execInvShiftRows (s : State) : Host.Outcome State Fault Refusal :=
  runCommand .invShiftRows (fun r => { r with state := invShiftRows r.state }) s

/-- MIX_COLUMNS: `STATE <- MixColumns(STATE)` (spec/42_round_transforms.md R145). -/
def execMixColumns (s : State) : Host.Outcome State Fault Refusal :=
  runCommand .mixColumns (fun r => { r with state := mixColumns r.state }) s

/-- INV_MIX_COLUMNS: `STATE <- InvMixColumns(STATE)` (spec/42_round_transforms.md R146). -/
def execInvMixColumns (s : State) : Host.Outcome State Fault Refusal :=
  runCommand .invMixColumns (fun r => { r with state := invMixColumns r.state }) s

/-- ADD_ROUND_KEY: `STATE <- AddRoundKey(STATE, RKIN)` (spec/42_round_transforms.md R147). -/
def execAddRoundKey (s : State) : Host.Outcome State Fault Refusal :=
  runCommand .addRoundKey (fun r => { r with state := addRoundKey r.state r.rkin }) s

end Sys2Proof.Machine
end

