-- ==== Sys2Proof/Machine/BlockCipher.lean ====
section
/-! DEFINITION. Block encryption and decryption, and the commands ENCRYPT_BLOCK and DECRYPT_BLOCK
(spec/44_block_cipher.md R170 to R176). -/

namespace Sys2Proof.Machine

/-- A full encryption round with round key k (spec/44_block_cipher.md R170). -/
def encRound (b k : Block) : Block := addRoundKey (mixColumns (shiftRows (subBytes b))) k

/-- The final encryption round: MixColumns omitted (spec/44_block_cipher.md R170). -/
def encFinal (b k : Block) : Block := addRoundKey (shiftRows (subBytes b)) k

/-- `Cipher(p, w)` (spec/44_block_cipher.md R170). -/
def cipher (p : Block) (w : Vector Word 44) : Block :=
  encFinal
    ([1, 2, 3, 4, 5, 6, 7, 8, 9].foldl (fun b r => encRound b (roundKey w r))
      (addRoundKey p (roundKey w 0)))
    (roundKey w 10)

/-- An inverse round with round key k: AddRoundKey comes before InvMixColumns
(spec/44_block_cipher.md R171, spec/90_conflicts.md C3). -/
def decRound (b k : Block) : Block := invMixColumns (addRoundKey (invSubBytes (invShiftRows b)) k)

/-- The final inverse round: InvMixColumns omitted (spec/44_block_cipher.md R171). -/
def decFinal (b k : Block) : Block := addRoundKey (invSubBytes (invShiftRows b)) k

/-- `InvCipher(c, w)` (spec/44_block_cipher.md R171). -/
def invCipher (c : Block) (w : Vector Word 44) : Block :=
  decFinal
    ([9, 8, 7, 6, 5, 4, 3, 2, 1].foldl (fun b r => decRound b (roundKey w r))
      (addRoundKey c (roundKey w 10)))
    (roundKey w 0)

/-- ENCRYPT_BLOCK: `RK <- ExpandKey(KEY); RKV <- 1; STATE <- Cipher(STATE, ExpandKey(KEY))`
(spec/44_block_cipher.md R172). -/
def execEncryptBlock (s : State) : Host.Outcome State Fault Refusal :=
  runCommand .encryptBlock
    (fun r => { r with state := cipher r.state (expandKey r.key), rk := expandKey r.key, rkv := true }) s

/-- DECRYPT_BLOCK: `RK <- ExpandKey(KEY); RKV <- 1; STATE <- InvCipher(STATE, ExpandKey(KEY))`
(spec/44_block_cipher.md R173). -/
def execDecryptBlock (s : State) : Host.Outcome State Fault Refusal :=
  runCommand .decryptBlock
    (fun r => { r with state := invCipher r.state (expandKey r.key), rk := expandKey r.key, rkv := true }) s

end Sys2Proof.Machine
end

