-- ==== Sys2Proof/Machine/Dispatch.lean ====
section
/-! DEFINITION. One arm per command: the next event in the life of the command, which is its acceptance
when no command is in flight and its completion when it is in flight itself
(spec/40_command_execution.md R100, R101, R104; log entry 5). -/

namespace Sys2Proof.Machine

/-- The meaning of a command at a state (spec/30_encoding.md R83; spec/40_command_execution.md R101, R104). -/
def exec (i : Instr) (s : State) : Host.Outcome State Fault Refusal :=
  match i with
  | .subBytes => Sys2Proof.Machine.execSubBytes s
  | .invSubBytes => Sys2Proof.Machine.execInvSubBytes s
  | .shiftRows => Sys2Proof.Machine.execShiftRows s
  | .invShiftRows => Sys2Proof.Machine.execInvShiftRows s
  | .mixColumns => Sys2Proof.Machine.execMixColumns s
  | .invMixColumns => Sys2Proof.Machine.execInvMixColumns s
  | .addRoundKey => Sys2Proof.Machine.execAddRoundKey s
  | .expandKey => Sys2Proof.Machine.execExpandKey s
  | .encryptBlock => Sys2Proof.Machine.execEncryptBlock s
  | .decryptBlock => Sys2Proof.Machine.execDecryptBlock s

end Sys2Proof.Machine
end

