-- ==== Sys2Proof/Machine/Bus.lean ====
section
/-! DEFINITION. The bus slave: the register map, the checks of an access in their order, reads and
writes (spec/20_memory.md R50 to R63, spec/60_exceptions.md R208). -/

namespace Sys2Proof.Machine

/-- The register at a byte offset of the window, none where the map has no register
(spec/20_memory.md R51, R58). -/
def regAt (off : BitVec 12) : Option Reg :=
  if off.toNat % 4 ≠ 0 then none
  else
    let n := off.toNat / 4
    if n = 0 then some .ctrl
    else if n = 1 then some .cmd
    else if n = 2 then some .status
    else if h : 4 ≤ n ∧ n < 8 then some (.key ⟨n - 4, by omega⟩)
    else if h : 8 ≤ n ∧ n < 12 then some (.state ⟨n - 8, by omega⟩)
    else if h : 12 ≤ n ∧ n < 16 then some (.rkin ⟨n - 12, by omega⟩)
    else if h : 64 ≤ n ∧ n < 108 then some (.rk ⟨n - 64, by omega⟩)
    else none

/-- The byte offset of a register (spec/20_memory.md R51). -/
def offsetOf (r : Reg) : BitVec 12 :=
  match r with
  | .ctrl => 0x000#12
  | .cmd => 0x004#12
  | .status => 0x008#12
  | .key k => BitVec.ofNat 12 (0x010 + 4 * k.val)
  | .state k => BitVec.ofNat 12 (0x020 + 4 * k.val)
  | .rkin k => BitVec.ofNat 12 (0x030 + 4 * k.val)
  | .rk i => BitVec.ofNat 12 (0x100 + 4 * i.val)

/-- The platform address of an offset of the window (spec/00_scope.md R10, spec/20_memory.md R65). -/
def busAddress (off : BitVec 12) : Nat := Config.base + off.toNat

/-- `off = addr - BASE` for an address in the window, none outside it (spec/20_memory.md R50, R53). -/
def windowOffset (addr : Nat) : Option (BitVec 12) :=
  if Config.base ≤ addr ∧ addr < Config.base + 4096 then some (BitVec.ofNat 12 (addr - Config.base))
  else none

/-- "The only admitted access is 4 bytes … at an offset with `off[1:0] = 0`" (spec/20_memory.md R56). -/
def isAlignedWord (a : Access) : Bool :=
  match a.size with
  | .one => false
  | .two => false
  | .four => a.off.toNat % 4 == 0
  | .reserved => false

/-- The checks (1) to (3) of an access in their order: width or alignment, unmapped offset, write to RK
(spec/60_exceptions.md R208; spec/20_memory.md R54 to R59). -/
def busCheck (a : Access) : Except BusError Reg :=
  if isAlignedWord a then
    match regAt a.off with
    | none => .error .unmapped
    | some (.rk i) =>
      match a.kind with
      | .read => .ok (.rk i)
      | .write => .error .readOnly
    | some r => .ok r
  else .error .misalignedOrNarrow

/-- The value of a register that a read sees where it is not `ANY` (spec/20_memory.md R54). -/
def heldValue (g : Reg) (r : Regs) : Word :=
  match g with
  | .ctrl => ctrlWord r
  | .cmd => 0
  | .status => statusWord r
  | .key k => blockWord r.key k
  | .state k => blockWord r.state k
  | .rkin k => blockWord r.rkin k
  | .rk i => scheduleWord r.rk i

/-- A read of this register is a read of `ANY`: it is in the write set of the command in flight
(spec/20_memory.md R54, spec/40_command_execution.md R108). -/
def readsAny (g : Reg) (r : Regs) : Bool :=
  match g with
  | .state _ => stateInWriteSet r
  | .rk _ => scheduleInWriteSet r
  | _ => false

/-- A read: the data, and the state with the draw of `ANY`, if there was one, counted. No read changes
the core's state (spec/20_memory.md R54, R62). -/
def readReg (g : Reg) (s : State) : Word × State :=
  if readsAny g s.toRegs then (Config.anyRead s.draws, { s with draws := s.draws + 1 })
  else (heldValue g s.toRegs, s)

/-- `IssueCommand(v)`, reached only with BUSY = 0: a legal word is accepted, an illegal one recorded as
ILLEGAL_CMD (spec/40_command_execution.md R101, R102). -/
def issueCommand (v : Word) (s : State) : Host.Outcome State Fault Refusal :=
  match decode v with
  | .ok i => exec i s
  | .error _ => .next { s with toRegs := raiseCmdError .illegalCmd s.toRegs }

/-- A write of CMD: discarded and not decoded while BUSY = 1 (spec/40_command_execution.md R101 to R103). -/
def writeCmd (v : Word) (s : State) : Host.Outcome State Fault Refusal :=
  if isBusy s.toRegs then .next { s with toRegs := raiseCmdError .busyViolation s.toRegs }
  else issueCommand v s

/-- A write of any register (spec/20_memory.md R55). A write of RK does not come here: `busCheck` answers
it with an error (R59). -/
def writeReg (g : Reg) (v : Word) (s : State) : Host.Outcome State Fault Refusal :=
  match g with
  | .ctrl => .next { s with toRegs := writeCtrl v s.toRegs }
  | .cmd => writeCmd v s
  | .status => .next { s with toRegs := writeStatus v s.toRegs }
  | .key k => .next { s with toRegs := guardBusy (writeKeyWord k v) s.toRegs }
  | .state k => .next { s with toRegs := guardBusy (writeStateWord k v) s.toRegs }
  | .rkin k => .next { s with toRegs := guardBusy (writeRkinWord k v) s.toRegs }
  | .rk _ => .next s

/-- `MemRead` and `MemWrite` with the answer the host receives. A bus error changes no state of the core
and is recorded in the run's answers as a fault (spec/20_memory.md R54, R55, R57; log entry 3). -/
def busAccess (a : Access) (s : State) : Host.Outcome State Fault Refusal :=
  match a.size with
  | .reserved => .fault .reservedAccessSize
  | .one | .two | .four =>
    match busCheck a with
    | .error e => .next (answer (.busError e) s)
    | .ok g =>
      match a.kind with
      | .read => .next (answer (.data (readReg g s).1) (readReg g s).2)
      | .write => mapNext (answer .ok) (writeReg g a.wdata s)

/-- `rsp_err` of an answer (spec/20_memory.md R52, R57). DESIGN CHOICE: a lost access has no response, so the
`false` of that line is the model's and stands for no signal of the core (log entry 17). -/
def responseError (a : Answer) : Bool :=
  match a with
  | .data _ => false
  | .ok => false
  | .busError _ => true
  | .lost => false

/-- `rsp_rdata` of an answer to a read: 0 with an error (spec/20_memory.md R52, R57). DESIGN CHOICE: the spec
gives no data to an answer to a write, be it `ok` or a bus error, and a lost access has no response, so the 0
of those answers is the model's; no step reads it (log entry 17). -/
def responseData (a : Answer) : Word :=
  match a with
  | .data v => v
  | .ok => 0
  | .busError _ => 0
  | .lost => 0

end Sys2Proof.Machine
end

