-- ==== Sys2Proof/Machine/Agents.lean ====
section
/-! DEFINITION. The three agents, host, engine and reset, each with its one step, and whose turn it is
(spec/00_scope.md R17, spec/20_memory.md R67, spec/70_reset_and_hazards.md R230 to R232). -/

namespace Sys2Proof.Machine

/-- `R off`: a 4-byte read (spec/30_encoding.md R89). -/
def readOf (off : BitVec 12) : Access := ⟨.read, off, .four, 0⟩

/-- `W off, v`: a 4-byte write (spec/30_encoding.md R89). -/
def writeOf (off : BitVec 12) (v : Word) : Access := ⟨.write, off, .four, v⟩

/-- The data of the latest answer, on the bus while no later answer is; it is used only right after a read
(log entry 16). DESIGN CHOICE: 0 before any answer, which no step reads (log entry 17). -/
def latestData (s : State) : Word :=
  match s.log with
  | [] => 0
  | a :: _ => responseData a

/-- After the STATUS read of a `WAIT`: repeat while `rdata[0] == 1` (spec/30_encoding.md R90). -/
def repeatWait (s : State) : State :=
  if (latestData s).getLsbD 0 then { s with host := .wait :: s.host } else s

/-- After the read of a `MOVRK` word: the write of the value read comes next (spec/30_encoding.md R90). -/
def thenWrite (dst : BitVec 12) (s : State) : State :=
  { s with host := .access (writeOf dst (latestData s)) :: s.host }

/-- The host's turn: one bus access of the program line that comes next; a host whose program has ended
does nothing (spec/20_memory.md R53, R67; spec/30_encoding.md R89, R90). -/
def hostTurn (s : State) : Host.Outcome State Fault Refusal :=
  match s.host with
  | [] => .next s
  | .access a :: rest => busAccess a { s with host := rest }
  | .wait :: rest => mapNext repeatWait (busAccess (readOf 0x008#12) { s with host := rest })
  | .move src dst :: rest => mapNext (thenWrite dst) (busAccess (readOf src) { s with host := rest })

/-- The engine's turn: `Complete`, "enabled exactly when phase == BUSY(c)"
(spec/40_command_execution.md R104). -/
def engineTurn (s : State) : Host.Outcome State Fault Refusal :=
  match s.phase with
  | .idle => .next s
  | .busy c => exec c s

/-- `req_ready`: the core takes a request unless reset is asserted (spec/20_memory.md R52,
spec/70_reset_and_hazards.md R232). -/
def reqReady (s : State) : Bool := s.rstN

/-- A turn. While `rst_n` = 0 no access is serviced and no command runs: the host waits and the core
holds its reset values (spec/70_reset_and_hazards.md R230, R232). -/
def takeTurn (t : Turn) (s : State) : Host.Outcome State Fault Refusal :=
  match t with
  | .host => if reqReady s then hostTurn s else .next (resetRegs s)
  | .engine => if s.rstN then engineTurn s else .next (resetRegs s)
  | .resetAssert => .next (assertReset s)
  | .resetLosingAccess => .next (assertReset (loseAccess s))
  | .resetRelease => .next (releaseReset s)

/-- Whose turn it is where the schedule names none: the engine's while a command is in flight, so that
every accepted command completes, else the host's (spec/40_command_execution.md R110; log entry 6). -/
def defaultTurn (s : State) : Turn := if isBusy s.toRegs then .engine else .host

/-- Whose turn it is: the first the schedule names, or the default one (spec/20_memory.md R67). -/
def turnOf (s : State) : Turn :=
  match s.sched with
  | [] => defaultTurn s
  | u :: _ => u

/-- One step of the machine: the turn whose it is, taken from the schedule. -/
def nextStep (s : State) : Host.Outcome State Fault Refusal :=
  takeTurn (turnOf s) { s with sched := s.sched.tail }

/-- The next step is a host write `W off, v` at the offset of register g (spec/30_encoding.md R89). -/
def hostWrites (s : State) (g : Reg) (v : Word) : Prop :=
  turnOf s = .host ∧ ∃ rest, s.host = .access (writeOf (offsetOf g) v) :: rest

/-- The state with a host write of CMD about to be made, in a phase that accepts it. -/
def placeCommandWord (v : Word) (s : State) : State :=
  { s with
    phase := .idle
    rstN := true
    host := .access (writeOf 0x004#12 v) :: s.host
    sched := .host :: s.sched }

end Sys2Proof.Machine
end

