-- ==== Sys2Proof/Machine/Step.lean ====
section
/-! DEFINITION. The step of the machine, and placing an instruction where the next step takes it
(spec/00_scope.md R17, spec/10_state.md R22). -/

namespace Sys2Proof.Machine

/-- One atomic step of one agent (spec/20_memory.md R67). -/
def step (s : State) : Host.Outcome State Fault Refusal := nextStep s

/-- The core fetches no instruction: the host issues a command by a write of its word to CMD
(spec/10_state.md R22). So the instruction is placed as the host's next access, the host's turn comes
next, reset is released and no command is in flight, or the write would not be accepted (log entry 10). -/
def State.withFetchWord (s : State) (nbits w : Nat) : State :=
  placeCommandWord (tableWord nbits w) s

end Sys2Proof.Machine
end

