-- ==== Sys2Proof/Machine/HostProgram.lean ====
section
/-! DEFINITION. The pseudo-instructions of the host notation as host program lines
(spec/30_encoding.md R89, R90). -/

namespace Sys2Proof.Machine

/-- `W off, v`. -/
def lineWrite (off : BitVec 12) (v : Word) : HostOp := .access (writeOf off v)

/-- `R off`. -/
def lineRead (off : BitVec 12) : HostOp := .access (readOf off)

/-- `CMD m`. -/
def pseudoCmd (i : Instr) : List HostOp := [lineWrite 0x004#12 (encode i)]

/-- `WAIT`. -/
def pseudoWait : List HostOp := [.wait]

/-- Four writes of a group from its first offset. -/
def loadGroup (off : BitVec 12) (b : Block) : List HostOp :=
  [lineWrite off b.w0, lineWrite (off + 4) b.w1, lineWrite (off + 8) b.w2, lineWrite (off + 12) b.w3]

/-- Four reads of a group from its first offset. -/
def readGroup (off : BitVec 12) : List HostOp :=
  [lineRead off, lineRead (off + 4), lineRead (off + 8), lineRead (off + 12)]

/-- `LDKEY h`. -/
def pseudoLdKey (h : BitVec 128) : List HostOp := loadGroup 0x010#12 (blockOfHex h)

/-- `LDSTATE h`. -/
def pseudoLdState (h : BitVec 128) : List HostOp := loadGroup 0x020#12 (blockOfHex h)

/-- `LDRKIN h`. -/
def pseudoLdRkin (h : BitVec 128) : List HostOp := loadGroup 0x030#12 (blockOfHex h)

/-- `RDSTATE`. -/
def pseudoRdState : List HostOp := readGroup 0x020#12

/-- The offset of round key r, `0x100 + 16r`, r = 0..10 (spec/20_memory.md R51). -/
def roundKeyOffset (r : Nat) : BitVec 12 := BitVec.ofNat 12 (0x100 + 16 * r)

/-- `RDRK r`. -/
def pseudoRdRk (r : Nat) : List HostOp := readGroup (roundKeyOffset r)

/-- `CLRST`. -/
def pseudoClrSt : List HostOp := [lineWrite 0x008#12 0x00000006#32]

/-- `MOVRK r`: round key r is copied into RKIN. -/
def pseudoMovRk (r : Nat) : List HostOp :=
  [.move (roundKeyOffset r) 0x030#12, .move (roundKeyOffset r + 4) 0x034#12,
   .move (roundKeyOffset r + 8) 0x038#12, .move (roundKeyOffset r + 12) 0x03C#12]

end Sys2Proof.Machine
end

