-- ==== Sys2Proof/Machine/ReferenceFsm.lean ====
section
/-! DEFINITION. The reference FSM that runs a command cycle by cycle (spec/44_block_cipher.md R180 to R186,
informative). `step` does not use it: the machine completes a command in one step
(spec/40_command_execution.md R104), and the FSM is a second design to compare with that step. -/

namespace Sys2Proof.Machine

/-- The FSM states (spec/44_block_cipher.md R181). -/
inductive RefFsm where
  | idle
  /-- `XF`: one transform, one cycle. -/
  | xf (c : Instr)
  /-- `KX(r)`: key step r of EXPAND_KEY. -/
  | kx (r : Nat)
  /-- `EN(r)`: encryption round r. -/
  | en (r : Nat)
  /-- `DK(r)`: key step r of decryption's key pre-pass. -/
  | dk (r : Nat)
  /-- `DE(r)`: decryption round r. -/
  | de (r : Nat)
deriving DecidableEq, Repr

/-- The registers of the reference engine and the STATUS bits it writes; the round counter `rnd` is the index
of the FSM state (spec/44_block_cipher.md R180, R181). KEY and RKIN are the operands, which no cycle changes. -/
structure RefEngine where
  fsm : RefFsm
  state : Block
  key : Block
  rkin : Block
  /-- The round-key register `rk`. -/
  rkReg : Block
  rk : Vector Word 44
  /-- STATUS.DONE. -/
  done : Bool
  /-- STATUS.RKV. -/
  rkv : Bool
deriving DecidableEq, Repr

/-- STATUS.BUSY: the FSM is in a state of a command (spec/44_block_cipher.md R181, spec/10_state.md R26). -/
def refBusy (e : RefEngine) : Bool :=
  match e.fsm with
  | .idle => false
  | .xf _ => true
  | .kx _ => true
  | .en _ => true
  | .dk _ => true
  | .de _ => true

/-- The return to `IDLE` after the last state of a command: BUSY 0, DONE 1
(spec/44_block_cipher.md R181). -/
def refFinish (e : RefEngine) : RefEngine := { e with fsm := .idle, done := true }

/-- The same for a command that has written the schedule, whose final writes in `Complete` take RKV to 1
(spec/44_block_cipher.md R181, spec/40_command_execution.md R104). -/
def refFinishSchedule (e : RefEngine) : RefEngine := { refFinish e with rkv := true }

/-- `KeyStep(rk, RCON[r])`: round key r from round key r - 1 (spec/44_block_cipher.md R180, R183). -/
def keyStep (k : Block) (r : Nat) : Block :=
  let a := nextWord (4 * r) k.w0 k.w3
  let b := nextWord (4 * r + 1) k.w1 a
  let c := nextWord (4 * r + 2) k.w2 b
  ⟨a, b, c, nextWord (4 * r + 3) k.w3 c⟩

/-- `RK[4r..4r+3] <- k`. -/
def setRoundKey (w : Vector Word 44) (r : Nat) (k : Block) : Vector Word 44 :=
  (((w.setIfInBounds (4 * r) k.w0).setIfInBounds (4 * r + 1) k.w1).setIfInBounds (4 * r + 2) k.w2).setIfInBounds
    (4 * r + 3) k.w3

/-- The function of a transform command; the other three commands do not pass through `XF`
(spec/44_block_cipher.md R182). -/
def transformOf (c : Instr) (rkin b : Block) : Block :=
  match c with
  | .subBytes => subBytes b
  | .invSubBytes => invSubBytes b
  | .shiftRows => shiftRows b
  | .invShiftRows => invShiftRows b
  | .mixColumns => mixColumns b
  | .invMixColumns => invMixColumns b
  | .addRoundKey => addRoundKey b rkin
  | .expandKey => b
  | .encryptBlock => b
  | .decryptBlock => b

/-- The first state of a command (spec/44_block_cipher.md R181 to R185). -/
def refFirst (c : Instr) : RefFsm :=
  match c with
  | .subBytes => .xf .subBytes
  | .invSubBytes => .xf .invSubBytes
  | .shiftRows => .xf .shiftRows
  | .invShiftRows => .xf .invShiftRows
  | .mixColumns => .xf .mixColumns
  | .invMixColumns => .xf .invMixColumns
  | .addRoundKey => .xf .addRoundKey
  | .expandKey => .kx 1
  | .encryptBlock => .en 0
  | .decryptBlock => .dk 1

/-- The engine at acceptance of a command: EXPAND_KEY and the key pre-pass of DECRYPT_BLOCK take round
key 0 from KEY (spec/44_block_cipher.md R181, R183, R185). DONE and RKV are those of every acceptance
(spec/40_command_execution.md R101). DESIGN CHOICE: the spec gives the register `rk` no value at the acceptance
of ENCRYPT_BLOCK or of a transform, and the model puts KEY there (log entry 18). -/
def refAccept (c : Instr) (r : Regs) : RefEngine where
  fsm := refFirst c
  state := r.state
  key := r.key
  rkin := r.rkin
  rkReg := r.key
  rk :=
    match c with
    | .expandKey => setRoundKey r.rk 0 r.key
    | .decryptBlock => setRoundKey r.rk 0 r.key
    | _ => r.rk
  done := false
  rkv := if writesSchedule c then false else r.rkv

/-- One key step: `rk <- KeyStep(rk, RCON[r])` and `RK[4r..4r+3] <- rk` (spec/44_block_cipher.md R183). -/
def refKeyStep (r : Nat) (e : RefEngine) : RefEngine :=
  { e with rkReg := keyStep e.rkReg r, rk := setRoundKey e.rk r (keyStep e.rkReg r) }

/-- One clock cycle; the last state of a command performs its final writes and returns to `IDLE`
(spec/44_block_cipher.md R181 to R185). -/
def refCycle (e : RefEngine) : RefEngine :=
  match e.fsm with
  | .idle => e
  | .xf c => refFinish { e with state := transformOf c e.rkin e.state }
  | .kx r =>
    if r = 10 then refFinishSchedule (refKeyStep r e) else { refKeyStep r e with fsm := .kx (r + 1) }
  | .en r =>
    if r = 0 then
      { e with
        state := addRoundKey e.state e.key, rkReg := e.key, rk := setRoundKey e.rk 0 e.key, fsm := .en 1 }
    else
      let k := keyStep e.rkReg r
      if r = 10 then refFinishSchedule { refKeyStep r e with state := encFinal e.state k }
      else { refKeyStep r e with state := encRound e.state k, fsm := .en (r + 1) }
  | .dk r => { refKeyStep r e with fsm := if r = 10 then .de 10 else .dk (r + 1) }
  | .de r =>
    if r = 10 then { e with state := addRoundKey e.state (roundKey e.rk 10), fsm := .de 9 }
    else if r = 0 then refFinishSchedule { e with state := decFinal e.state (roundKey e.rk 0) }
    else { e with state := decRound e.state (roundKey e.rk r), fsm := .de (r - 1) }

/-- `n` clock cycles. -/
def refRun (n : Nat) (e : RefEngine) : RefEngine :=
  match n with
  | 0 => e
  | m + 1 => refRun m (refCycle e)

end Sys2Proof.Machine
end

