-- ==== Sys2Proof/WellFormed.lean ====
section
/-! DEFINITION. What is well formed: a command word, a command by its word, and a host access
(spec/30_encoding.md R81 to R86, spec/20_memory.md R56 to R59). -/

namespace Sys2Proof

/-- RSV is 0 and OP is one of 0x1..0xA (spec/30_encoding.md R81, R83, R85, R86). -/
def isLegalWord (v : Word) : Bool :=
  rsvField v == 0 && (1 ≤ (opField v).toNat && (opField v).toNat ≤ 10)

/-- A command is well formed when its word is legal; a command has no operand fields that could be out of
range (spec/30_encoding.md R82). -/
def isWellFormed (i : Instr) : Bool := isLegalWord (encode i)

/-- An access the map admits: 4 bytes, aligned, at a mapped offset, and no write to RK
(spec/20_memory.md R56 to R59). -/
def isAdmitted (a : Machine.Access) : Bool :=
  match Machine.busCheck a with
  | .ok _ => true
  | .error _ => false

end Sys2Proof
end

