-- ==== Sys2Proof/Safety.lean ====
section
/-! DEFINITION. What counts as a fault-free and an ended run, and the invariants of the machine
(spec/40_command_execution.md R112, spec/92_eei_decisions.md D32 and D33, spec/10_state.md R39 and R40,
spec/70_reset_and_hazards.md R230), and what it is for one command to follow another. -/

namespace Sys2Proof.Safety

open Sys2Proof.Machine

/-- An answer that is a fault of the run: a bus error, or no answer because of a reset
(spec/20_memory.md R57, spec/70_reset_and_hazards.md R232). -/
def isRunFault (a : Answer) : Bool :=
  match a with
  | .data _ => false
  | .ok => false
  | .busError _ => true
  | .lost => true

/-- No fault of the run is recorded (spec/92_eei_decisions.md D32). -/
def faultFree (s : State) : Bool := s.log.all fun a => !isRunFault a

/-- "The host has performed its last access and the engine phase is IDLE"
(spec/40_command_execution.md R112). -/
def runEnded (s : State) : Bool := s.host.isEmpty && !isBusy s.toRegs

/-- "BUSY = 1 implies DONE = 0. ERR = 0 if and only if ERRCODE = 0" (spec/10_state.md R40). -/
def phaseInv (r : Regs) : Prop :=
  (isBusy r = true → r.done = false) ∧ (r.err = false ↔ r.errCode = 0)

/-- ERRCODE holds a code that some error has: 0x3..0xF are "never raised" (spec/60_exceptions.md R202). -/
def errorCodeInv (r : Regs) : Prop :=
  r.errCode = 0 ∨ r.errCode = errorCode .illegalCmd ∨ r.errCode = errorCode .busyViolation

/-- "Whenever STATUS.RKV = 1, RK[i] = `ExpandKey(KEY)` word i for every i in 0..43" (spec/10_state.md R39). -/
def rkvInv (r : Regs) : Prop := r.rkv = true → r.rk = expandKey r.key

/-- While `rst_n` = 0 every piece of the core's state holds its reset value
(spec/70_reset_and_hazards.md R230). -/
def resetInv (s : State) : Prop := s.rstN = false → s.toRegs = Regs.reset

/-- `w` is the key schedule of `key`, by its first four words and its recurrence
(spec/43_key_expansion.md R160). -/
def isScheduleOf (key : Block) (w : Vector Word 44) : Prop :=
  (w[0] = key.w0 ∧ w[1] = key.w1 ∧ w[2] = key.w2 ∧ w[3] = key.w3) ∧
    ∀ (i : Nat) (_ : i < 44), 4 ≤ i →
      w[i] = w[i - 4] ^^^
        (if i % 4 = 0 then subWord (rotWord w[i - 1]) ^^^ (rcon (i / 4) ++ 0x00#8 ++ 0x00#8 ++ 0x00#8)
          else w[i - 1])

/-- A command issued and completed with no other event between (spec/40_command_execution.md R100). -/
def executed (i : Instr) (s : State) : Host.Outcome State Fault Refusal :=
  match exec i s with
  | .next t => exec i t
  | .fault e => .fault e
  | .refused e => .refused e

/-- What `MOVRK r` leaves: round key r in RKIN (spec/30_encoding.md R90). -/
def moveRoundKey (r : Nat) (s : State) : Host.Outcome State Fault Refusal :=
  .next { s with rkin := roundKey s.rk r }

/-- Actions one after the other. -/
def inOrder (acts : List (State → Host.Outcome State Fault Refusal)) (s : State) :
    Host.Outcome State Fault Refusal :=
  match acts with
  | [] => .next s
  | f :: rest =>
    match f s with
    | .next t => inOrder rest t
    | .fault e => .fault e
    | .refused e => .refused e

/-- The command sequence that ENCRYPT_BLOCK is equal to (spec/44_block_cipher.md R175). -/
def encryptSequence : List (State → Host.Outcome State Fault Refusal) :=
  [executed .expandKey, moveRoundKey 0, executed .addRoundKey] ++
    [1, 2, 3, 4, 5, 6, 7, 8, 9].flatMap (fun r =>
      [executed .subBytes, executed .shiftRows, executed .mixColumns, moveRoundKey r,
        executed .addRoundKey]) ++
    [executed .subBytes, executed .shiftRows, moveRoundKey 10, executed .addRoundKey]

/-- The command sequence that DECRYPT_BLOCK is equal to (spec/44_block_cipher.md R171, R175). -/
def decryptSequence : List (State → Host.Outcome State Fault Refusal) :=
  [executed .expandKey, moveRoundKey 10, executed .addRoundKey] ++
    [9, 8, 7, 6, 5, 4, 3, 2, 1].flatMap (fun r =>
      [executed .invShiftRows, executed .invSubBytes, moveRoundKey r, executed .addRoundKey,
        executed .invMixColumns]) ++
    [executed .invShiftRows, executed .invSubBytes, moveRoundKey 0, executed .addRoundKey]

/-- A step out of reset. -/
def stepsTo (s t : State) : Prop := s.rstN = true ∧ t.rstN = true ∧ step s = .next t

/-- The step accepts command c: a CMD write of its word with no command in flight
(spec/40_command_execution.md R101). -/
def accepts (c : Instr) (s t : State) : Prop :=
  s.phase = .idle ∧ (∃ v, hostWrites s .cmd v ∧ decode v = .ok c) ∧ t.phase = .busy c ∧ t.done = false

/-- The step completes command c (spec/40_command_execution.md R104). -/
def completes (c : Instr) (s t : State) : Prop :=
  turnOf s = .engine ∧ s.phase = .busy c ∧ t.phase = .idle ∧ t.done = true

/-- The next step is a host write that the rules make a command error: an illegal word to CMD with no command
in flight, or a write to CMD, KEY, STATE or RKIN with one in flight (spec/60_exceptions.md R203, R204). -/
def makesError (e : CmdError) (s : State) : Prop :=
  match e with
  | .illegalCmd => s.phase = .idle ∧ ∃ v why, hostWrites s .cmd v ∧ decode v = .error why
  | .busyViolation =>
    s.phase ≠ .idle ∧ ∃ g v, hostWrites s g v ∧
      (g = .cmd ∨ (∃ k, g = .key k) ∨ (∃ k, g = .state k) ∨ ∃ k, g = .rkin k)

/-- A step out of reset that neither accepts nor completes a command (spec/20_memory.md R67). -/
def waitingStep (s t : State) : Prop := stepsTo s t ∧ t.phase = s.phase

/-- Command c from its CMD write to its completion, with any steps between (spec/40_command_execution.md R100,
R110). -/
def commandRun (c : Instr) (s t : State) : Prop :=
  s.phase = .idle ∧ hostWrites s .cmd (encode c) ∧
    ∃ a b, stepsTo s a ∧ Relation.ReflTransGen waitingStep a b ∧ turnOf b = .engine ∧ stepsTo b t

/-- A step between two commands that leaves STATE to them: no host write to STATE, and no command but
EXPAND_KEY, which does not write it (spec/42_round_transforms.md R148, spec/44_block_cipher.md R174). -/
def betweenStep (s t : State) : Prop :=
  stepsTo s t ∧ (s.phase = .idle ∨ s.phase = .busy .expandKey) ∧
    (t.phase = .idle ∨ t.phase = .busy .expandKey) ∧ ∀ k v, ¬ hostWrites s (.state k) v

end Sys2Proof.Safety
end

