-- ==== Sys2Proof/Certificates/Slice0/Obligations.lean ====
section
/-! DEFINITION. The statements for the provers, taken from the numbered rules of spec/. -/

open Sys2Proof Sys2Proof.Machine Sys2Proof.Safety

/-- For every 32-bit word v and command i, decode v is i if and only if v is encode i; the words of the ten commands are 0x00000001 to 0x0000000A in the order of the opcode map; so exactly ten words decode to a command and every other word decodes to Illegal. (stated: R84) -/
def Obligations.DecodeAndEncodeAgree : Prop :=
  (∀ (v : Word) (i : Instr), decode v = .ok i ↔ v = encode i) ∧
    encode .subBytes = 0x00000001#32 ∧ encode .invSubBytes = 0x00000002#32 ∧
    encode .shiftRows = 0x00000003#32 ∧ encode .invShiftRows = 0x00000004#32 ∧
    encode .mixColumns = 0x00000005#32 ∧ encode .invMixColumns = 0x00000006#32 ∧
    encode .addRoundKey = 0x00000007#32 ∧ encode .expandKey = 0x00000008#32 ∧
    encode .encryptBlock = 0x00000009#32 ∧ encode .decryptBlock = 0x0000000A#32

/-- A word whose bits 31:4 are not 0 decodes to Illegal whatever its OP; a word with RSV = 0 and OP 0 or 11 to 15 decodes to Illegal as a reserved OP; every other word decodes to a command. (derived: R84, R85, R86, R87) -/
def Obligations.ReservedWordsAreIllegal : Prop :=
  ∀ v : Word,
    (v.toNat / 16 ≠ 0 → decode v = .error .reservedBitsSet) ∧
      (v.toNat / 16 = 0 → (v.toNat = 0 ∨ 11 ≤ v.toNat) → decode v = .error .reservedOp) ∧
      (1 ≤ v.toNat → v.toNat ≤ 10 → ∃ i, decode v = .ok i)

/-- The words 0x00000001, 0x00000004, 0x00000006, 0x00000007, 0x00000008, 0x0000000A decode to SUB_BYTES, INV_SHIFT_ROWS, INV_MIX_COLUMNS, ADD_ROUND_KEY, EXPAND_KEY, DECRYPT_BLOCK; 0x00000000, 0x0000000B and 0x80000009 decode to Illegal. (derived: R83, R85, R86) -/
def Obligations.WordsOfTheEncodingDecode : Prop :=
  decode 0b00000000000000000000000000000001#32 = .ok .subBytes ∧
    decode 0b00000000000000000000000000000100#32 = .ok .invShiftRows ∧
    decode 0b00000000000000000000000000000110#32 = .ok .invMixColumns ∧
    decode 0b00000000000000000000000000000111#32 = .ok .addRoundKey ∧
    decode 0b00000000000000000000000000001000#32 = .ok .expandKey ∧
    decode 0b00000000000000000000000000001010#32 = .ok .decryptBlock ∧
    decode 0x00000000#32 = .error .reservedOp ∧ decode 0x0000000B#32 = .error .reservedOp ∧
    decode 0x80000009#32 = .error .reservedBitsSet

/-- When reset is released and the next line of the host program is an access a, a step with the host next in the schedule answers busAccess a of the state with that turn and that line taken, and so does, with no turn to take, a step with an empty schedule and no command in flight; when a is a 4-byte write to CMD of a word that decodes to i and no command is in flight, it answers exec i of the state with that turn and that line taken, with the ok answer added. With no line left a host turn changes nothing but the schedule. The host and schedule fields are the model's own (log entry 1), and so is the host's turn with an empty schedule (log entry 6). (derived: R53, R67, R101, R55) -/
def Obligations.HostWriteOfCommandRunsIt : Prop :=
  (∀ (s : State) (a : Access) (hs : List HostOp), s.rstN = true → s.host = .access a :: hs →
    (∀ ts, s.sched = .host :: ts → step s = busAccess a { s with host := hs, sched := ts }) ∧
      (s.sched = [] → s.phase = .idle → step s = busAccess a { s with host := hs }) ∧
      (∀ (ts : List Turn) (v : Word) (i : Instr), s.sched = .host :: ts → s.phase = .idle →
        a = writeOf 0x004#12 v → decode v = .ok i →
        step s = mapNext (answer .ok) (exec i { s with host := hs, sched := ts }))) ∧
    ∀ (s : State) (ts : List Turn), s.rstN = true → s.host = [] → s.sched = .host :: ts →
      step s = .next { s with sched := ts }

/-- When reset is released and command c is in flight, a step with the engine next in the schedule answers exec c of the state with that turn taken, and a step with an empty schedule answers exec c of the state itself (the engine goes first: log entry 6). (derived: R104, R110) -/
def Obligations.EngineTurnCompletesCommand : Prop :=
  ∀ (s : State) (c : Instr) (ts : List Turn), s.rstN = true → s.phase = .busy c →
    (s.sched = .engine :: ts → step s = exec c { s with sched := ts }) ∧
      (s.sched = [] → step s = exec c s)

/-- If the bits w of an opcode-table row decode to i, then a step of s.withFetchWord nbits w answers exec i of s with reset released and no command in flight, with the ok answer of the CMD write added (log entry 10). (derived: R22, R101) -/
def Obligations.PlacedWordIsRunByTheNextStep : Prop :=
  ∀ (s : State) (nbits w : Nat) (i : Instr), decodeTableWord nbits w = some i →
    step (s.withFetchWord nbits w) =
      mapNext (answer .ok) (exec i { s with phase := .idle, rstN := true })

/-- For each of the ten commands and every state with no command in flight, exec answers the state with the command in flight and DONE 0, RKV 0 for EXPAND_KEY, ENCRYPT_BLOCK and DECRYPT_BLOCK and RKV unchanged for the other seven, and every other field unchanged, ERR and ERRCODE among them. (derived: R101, R106, R29) -/
def Obligations.CommandIsAcceptedWhenIdle : Prop :=
  ∀ s : State, s.phase = .idle →
    (∀ i ∈ [Instr.expandKey, .encryptBlock, .decryptBlock],
      exec i s = .next { s with phase := .busy i, done := false, rkv := false }) ∧
      (∀ i ∈ [Instr.subBytes, .invSubBytes, .shiftRows, .invShiftRows, .mixColumns, .invMixColumns,
          .addRoundKey],
        exec i s = .next { s with phase := .busy i, done := false })

/-- For every word that decodes to Illegal and every state with no command in flight, the bus write of CMD answers ok, sets ERR, sets ERRCODE to 1 if ERR was 0 and keeps it otherwise, and leaves the phase, DONE, RKV, every data register and the rest as they were. (stated: R102) -/
def Obligations.IllegalWordIsRecordedAndStartsNothing : Prop :=
  ∀ (s : State) (v : Word) (why : IllegalWord), s.phase = .idle → decode v = .error why →
    busAccess (writeOf 0x004#12 v) s =
      .next { s with
        err := true, errCode := if s.err then s.errCode else 0x1#4, log := .ok :: s.log }

/-- For every word, legal or not, and every state with a command in flight, the bus write of CMD answers ok, sets ERR, sets ERRCODE to 2 if ERR was 0 and keeps it otherwise, and changes nothing else: the command in flight goes on. (stated: R103) -/
def Obligations.CommandWriteWhileBusyIsDiscarded : Prop :=
  ∀ (s : State) (v : Word) (c : Instr), s.phase = .busy c →
    busAccess (writeOf 0x004#12 v) s =
      .next { s with
        err := true, errCode := if s.err then s.errCode else 0x2#4, log := .ok :: s.log }

/-- When another command d is in flight, exec i sets ERR, sets ERRCODE to 2 if ERR was 0, and changes nothing else. No step of the machine makes this call: it is the model's own reading of R103 for exec (log entry 5). (derived: R103, R204) -/
def Obligations.CommandIsTurnedAwayWhileAnotherRuns : Prop :=
  ∀ (s : State) (i d : Instr), s.phase = .busy d → d ≠ i →
    exec i s = .next { s with err := true, errCode := if s.err then s.errCode else 0x2#4 }

/-- When SUB_BYTES is in flight, exec answers the state with STATE byte i = SBOX[old byte i] for i = 0..15, phase IDLE, DONE 1, and every other field unchanged. (derived: R141, R104, R140) -/
def Obligations.SubBytesResult : Prop :=
  ∀ s : State, s.phase = .busy .subBytes →
    ∃ b, exec .subBytes s = .next { s with state := b, phase := .idle, done := true } ∧
      ∀ i < 16, blockByte b i = sbox (blockByte s.state i)

/-- When INV_SUB_BYTES is in flight, exec answers the state with STATE byte i = INVSBOX[old byte i] for i = 0..15, phase IDLE, DONE 1, and every other field unchanged. (derived: R142, R104, R140) -/
def Obligations.InvSubBytesResult : Prop :=
  ∀ s : State, s.phase = .busy .invSubBytes →
    ∃ b, exec .invSubBytes s = .next { s with state := b, phase := .idle, done := true } ∧
      ∀ i < 16, blockByte b i = invSbox (blockByte s.state i)

/-- When SHIFT_ROWS is in flight, exec answers the state with the byte at row r, column c of STATE taken from row r, column (c + r) mod 4, phase IDLE, DONE 1, and every other field unchanged. (derived: R143, R104, R140) -/
def Obligations.ShiftRowsResult : Prop :=
  ∀ s : State, s.phase = .busy .shiftRows →
    ∃ b, exec .shiftRows s = .next { s with state := b, phase := .idle, done := true } ∧
      ∀ r < 4, ∀ c < 4, blockByte b (r + 4 * c) = blockByte s.state (r + 4 * ((c + r) % 4))

/-- When INV_SHIFT_ROWS is in flight, exec answers the state with the byte of STATE at row r, column (c + r) mod 4 taken from row r, column c, phase IDLE, DONE 1, and every other field unchanged. (derived: R144, R104, R140) -/
def Obligations.InvShiftRowsResult : Prop :=
  ∀ s : State, s.phase = .busy .invShiftRows →
    ∃ b, exec .invShiftRows s = .next { s with state := b, phase := .idle, done := true } ∧
      ∀ r < 4, ∀ c < 4, blockByte b (r + 4 * ((c + r) % 4)) = blockByte s.state (r + 4 * c)

/-- When MIX_COLUMNS is in flight, exec answers the state with the four bytes of each column of STATE given by the four sums of R145, phase IDLE, DONE 1, and every other field unchanged. (derived: R145, R104, R140) -/
def Obligations.MixColumnsResult : Prop :=
  ∀ s : State, s.phase = .busy .mixColumns →
    ∃ b, exec .mixColumns s = .next { s with state := b, phase := .idle, done := true } ∧
      ∀ c < 4, ∀ a0 a1 a2 a3 : Byte,
        a0 = blockByte s.state (4 * c) → a1 = blockByte s.state (4 * c + 1) →
        a2 = blockByte s.state (4 * c + 2) → a3 = blockByte s.state (4 * c + 3) →
        blockByte b (4 * c) = gmul 0x02#8 a0 ^^^ gmul 0x03#8 a1 ^^^ a2 ^^^ a3 ∧
          blockByte b (4 * c + 1) = a0 ^^^ gmul 0x02#8 a1 ^^^ gmul 0x03#8 a2 ^^^ a3 ∧
          blockByte b (4 * c + 2) = a0 ^^^ a1 ^^^ gmul 0x02#8 a2 ^^^ gmul 0x03#8 a3 ∧
          blockByte b (4 * c + 3) = gmul 0x03#8 a0 ^^^ a1 ^^^ a2 ^^^ gmul 0x02#8 a3

/-- When INV_MIX_COLUMNS is in flight, exec answers the state with the four bytes of each column of STATE given by the four sums of R146, phase IDLE, DONE 1, and every other field unchanged. (derived: R146, R104, R140) -/
def Obligations.InvMixColumnsResult : Prop :=
  ∀ s : State, s.phase = .busy .invMixColumns →
    ∃ b, exec .invMixColumns s = .next { s with state := b, phase := .idle, done := true } ∧
      ∀ c < 4, ∀ a0 a1 a2 a3 : Byte,
        a0 = blockByte s.state (4 * c) → a1 = blockByte s.state (4 * c + 1) →
        a2 = blockByte s.state (4 * c + 2) → a3 = blockByte s.state (4 * c + 3) →
        blockByte b (4 * c) =
            gmul 0x0E#8 a0 ^^^ gmul 0x0B#8 a1 ^^^ gmul 0x0D#8 a2 ^^^ gmul 0x09#8 a3 ∧
          blockByte b (4 * c + 1) =
            gmul 0x09#8 a0 ^^^ gmul 0x0E#8 a1 ^^^ gmul 0x0B#8 a2 ^^^ gmul 0x0D#8 a3 ∧
          blockByte b (4 * c + 2) =
            gmul 0x0D#8 a0 ^^^ gmul 0x09#8 a1 ^^^ gmul 0x0E#8 a2 ^^^ gmul 0x0B#8 a3 ∧
          blockByte b (4 * c + 3) =
            gmul 0x0B#8 a0 ^^^ gmul 0x0D#8 a1 ^^^ gmul 0x09#8 a2 ^^^ gmul 0x0E#8 a3

/-- When ADD_ROUND_KEY is in flight, exec answers the state with STATE byte i = old byte i xor RKIN byte i, equally each STATE word the xor of the old word and the RKIN word, phase IDLE, DONE 1, and every other field, RKIN among them, unchanged. (derived: R147, R104, R140) -/
def Obligations.AddRoundKeyResult : Prop :=
  ∀ s : State, s.phase = .busy .addRoundKey →
    ∃ b, exec .addRoundKey s = .next { s with state := b, phase := .idle, done := true } ∧
      (∀ i < 16, blockByte b i = blockByte s.state i ^^^ blockByte s.rkin i) ∧
      b = ⟨s.state.w0 ^^^ s.rkin.w0, s.state.w1 ^^^ s.rkin.w1, s.state.w2 ^^^ s.rkin.w2,
        s.state.w3 ^^^ s.rkin.w3⟩

/-- When EXPAND_KEY is in flight, exec answers the state with RK the schedule of KEY (its first four words are KEY0..KEY3 and each later word follows the recurrence of R160), RKV 1, phase IDLE, DONE 1, and every other field, STATE among them, unchanged. (derived: R161, R160, R104) -/
def Obligations.ExpandKeyResult : Prop :=
  ∀ s : State, s.phase = .busy .expandKey →
    ∃ w, exec .expandKey s = .next { s with rk := w, rkv := true, phase := .idle, done := true } ∧
      isScheduleOf s.key w

/-- When ENCRYPT_BLOCK is in flight, exec answers the state with RK the schedule w of KEY, RKV 1, STATE the result of AddRoundKey with round key 0, nine rounds of SubBytes, ShiftRows, MixColumns, AddRoundKey, and a last round without MixColumns, phase IDLE, DONE 1, and every other field unchanged. (derived: R172, R170, R160, R104) -/
def Obligations.EncryptBlockResult : Prop :=
  ∀ s : State, s.phase = .busy .encryptBlock →
    ∃ (b : Block) (w : Vector Word 44) (x : Nat → Block),
      exec .encryptBlock s =
        .next { s with state := b, rk := w, rkv := true, phase := .idle, done := true } ∧
      isScheduleOf s.key w ∧ x 0 = addRoundKey s.state (roundKey w 0) ∧
      (∀ r, 1 ≤ r → r ≤ 9 →
        x r = addRoundKey (mixColumns (shiftRows (subBytes (x (r - 1))))) (roundKey w r)) ∧
      b = addRoundKey (shiftRows (subBytes (x 9))) (roundKey w 10)

/-- When DECRYPT_BLOCK is in flight, exec answers the state with RK the schedule w of KEY, RKV 1, STATE the result of AddRoundKey with round key 10, the rounds 9 down to 1 of InvShiftRows, InvSubBytes, AddRoundKey, InvMixColumns, and a last round without InvMixColumns, phase IDLE, DONE 1, and every other field unchanged. (derived: R173, R171, R160, R104) -/
def Obligations.DecryptBlockResult : Prop :=
  ∀ s : State, s.phase = .busy .decryptBlock →
    ∃ (b : Block) (w : Vector Word 44) (x : Nat → Block),
      exec .decryptBlock s =
        .next { s with state := b, rk := w, rkv := true, phase := .idle, done := true } ∧
      isScheduleOf s.key w ∧ x 10 = addRoundKey s.state (roundKey w 10) ∧
      (∀ r, 1 ≤ r → r ≤ 9 →
        x r = invMixColumns (addRoundKey (invSubBytes (invShiftRows (x (r + 1)))) (roundKey w r))) ∧
      b = addRoundKey (invSubBytes (invShiftRows (x 1))) (roundKey w 0)

/-- With KEY 000102...0f, an ENCRYPT_BLOCK in flight on STATE 00112233...ff completes with STATE 69c4e0d86a7b0430d8cdb78070b4c55a, and a DECRYPT_BLOCK in flight on that STATE completes with 00112233...ff. (derived: R172, R173, 95_test_vectors.md V1, V2) -/
def Obligations.KnownAnswerBlock : Prop :=
  (∃ t, exec .encryptBlock
      { State.reset with
        phase := .busy .encryptBlock
        key := blockOfHex 0x000102030405060708090a0b0c0d0e0f#128
        state := blockOfHex 0x00112233445566778899aabbccddeeff#128 } = .next t ∧
      t.state = blockOfHex 0x69c4e0d86a7b0430d8cdb78070b4c55a#128) ∧
    (∃ t, exec .decryptBlock
      { State.reset with
        phase := .busy .decryptBlock
        key := blockOfHex 0x000102030405060708090a0b0c0d0e0f#128
        state := blockOfHex 0x69c4e0d86a7b0430d8cdb78070b4c55a#128 } = .next t ∧
      t.state = blockOfHex 0x00112233445566778899aabbccddeeff#128)

/-- Whenever exec i s is the next state t: KEY, RKIN, CTRL and the fields outside the core are unchanged; STATE is unchanged unless i itself is in flight and is not EXPAND_KEY; RK is unchanged unless i itself is in flight and is EXPAND_KEY, ENCRYPT_BLOCK or DECRYPT_BLOCK; ERR and ERRCODE are unchanged unless another command is in flight; every register of the map outside STATUS and the write set holds the word it held. (derived: R106, R104, R101, R51) -/
def Obligations.CommandsWriteOnlyTheirWriteSet : Prop :=
  ∀ (i : Instr) (s t : State), exec i s = .next t →
    t.key = s.key ∧ t.rkin = s.rkin ∧ t.ctrl = s.ctrl ∧ t.rstN = s.rstN ∧ t.host = s.host ∧
      t.sched = s.sched ∧ t.log = s.log ∧ t.draws = s.draws ∧
      (s.phase ≠ .busy i ∨ i = .expandKey → t.state = s.state) ∧
      (s.phase ≠ .busy i ∨ i ∉ [Instr.expandKey, .encryptBlock, .decryptBlock] → t.rk = s.rk) ∧
      (s.phase = .idle ∨ s.phase = .busy i → t.err = s.err ∧ t.errCode = s.errCode) ∧
      (∀ g : Reg, g ≠ .status → heldValue g t.toRegs ≠ heldValue g s.toRegs →
        s.phase = .busy i ∧
          ((∃ k, g = .state k) ∧ i ≠ .expandKey ∨
            (∃ k, g = .rk k) ∧ i ∈ [Instr.expandKey, .encryptBlock, .decryptBlock]))

/-- Offset off holds register g if and only if off is the offset of g: CTRL 0x000, CMD 0x004, STATUS 0x008, KEYk 0x010 + 4k, STATEk 0x020 + 4k, RKINk 0x030 + 4k (k = 0..3), RK[i] 0x100 + 4i (i = 0..43). (derived: R51, R50) -/
def Obligations.RegisterMapIsExact : Prop :=
  ∀ (off : BitVec 12) (g : Reg),
    regAt off = some g ↔
      off.toNat =
        match g with
        | .ctrl => 0x000
        | .cmd => 0x004
        | .status => 0x008
        | .key k => 0x010 + 4 * k.val
        | .state k => 0x020 + 4 * k.val
        | .rkin k => 0x030 + 4 * k.val
        | .rk i => 0x100 + 4 * i.val

/-- An access of size 1, 2 or 4 bytes answers misaligned_or_narrow if it is not 4 bytes or off mod 4 is not 0; else unmapped at 0x00C, 0x040..0x0FC and 0x1B0..0xFFF; else read_only for a write at 0x100..0x1AC. Each leaves every field but the host's list of answers as it was, ERR and ERRCODE among them; the answer has rsp_err = 1 and, for a read, rdata = 0; for a write the spec gives no rdata, and its 0 is the model's (log entry 17). That the error is put among the host's answers and the run goes on is the model's form of R57's fault (log entry 3). (derived: R56, R57, R58, R59, R208, 92_eei_decisions.md D32) -/
def Obligations.BusErrorsInTheirOrder : Prop :=
  (∀ (a : Access) (s : State), a.size ≠ .reserved → (a.size ≠ .four ∨ a.off.toNat % 4 ≠ 0) →
    busAccess a s = .next { s with log := .busError .misalignedOrNarrow :: s.log }) ∧
    (∀ (a : Access) (s : State), a.size = .four → a.off.toNat % 4 = 0 →
      (a.off.toNat = 0x00C ∨ (0x040 ≤ a.off.toNat ∧ a.off.toNat ≤ 0x0FC) ∨ 0x1B0 ≤ a.off.toNat) →
      busAccess a s = .next { s with log := .busError .unmapped :: s.log }) ∧
    (∀ (a : Access) (s : State), a.size = .four → a.off.toNat % 4 = 0 → a.kind = .write →
      (0x100 ≤ a.off.toNat ∧ a.off.toNat ≤ 0x1AC) →
      busAccess a s = .next { s with log := .busError .readOnly :: s.log }) ∧
    (∀ e : BusError, responseError (.busError e) = true ∧ responseData (.busError e) = 0)

/-- An access whose req_size is the reserved value stops with the fault reservedAccessSize, whatever its kind and offset: R52 calls the size reserved and gives it no effect, and to stop is the model's choice (log entry 4). (derived: R52) -/
def Obligations.ReservedAccessSizeStops : Prop :=
  ∀ (a : Access) (s : State), a.size = .reserved → busAccess a s = .fault .reservedAccessSize

/-- A 4-byte read answers: CTRL[1:0] zero-extended at 0x000, 0 at 0x004, the STATUS word at 0x008, KEYk, RKINk in any phase, STATEk unless a command other than EXPAND_KEY is in flight, RK[i] unless EXPAND_KEY, ENCRYPT_BLOCK or DECRYPT_BLOCK is in flight; nothing but the list of answers changes. (derived: R54, R62, R109) -/
def Obligations.ReadsReturnTheRegister : Prop :=
  ∀ s : State,
    busAccess (readOf 0x000#12) s = .next { s with log := .data (s.ctrl.setWidth 32) :: s.log } ∧
      busAccess (readOf 0x004#12) s = .next { s with log := .data 0 :: s.log } ∧
      busAccess (readOf 0x008#12) s = .next { s with log := .data (statusWord s.toRegs) :: s.log } ∧
      (∀ k : Fin 4, busAccess (readOf (BitVec.ofNat 12 (0x010 + 4 * k.val))) s =
        .next { s with log := .data (blockWord s.key k) :: s.log }) ∧
      (∀ k : Fin 4, busAccess (readOf (BitVec.ofNat 12 (0x030 + 4 * k.val))) s =
        .next { s with log := .data (blockWord s.rkin k) :: s.log }) ∧
      (∀ k : Fin 4, s.phase = .idle ∨ s.phase = .busy .expandKey →
        busAccess (readOf (BitVec.ofNat 12 (0x020 + 4 * k.val))) s =
          .next { s with log := .data (blockWord s.state k) :: s.log }) ∧
      (∀ k : Fin 44, (∀ c ∈ [Instr.expandKey, .encryptBlock, .decryptBlock], s.phase ≠ .busy c) →
        busAccess (readOf (BitVec.ofNat 12 (0x100 + 4 * k.val))) s =
          .next { s with log := .data s.rk[k.val] :: s.log })

/-- While a command other than EXPAND_KEY is in flight a read of STATEk, and while EXPAND_KEY, ENCRYPT_BLOCK or DECRYPT_BLOCK is in flight a read of RK[i], answers the free value of the next draw, and the count of draws goes up by one; nothing else changes. Nothing is known of the value (log entry 2). (derived: R108, R54) -/
def Obligations.ReadsOfTheWriteSetAreFree : Prop :=
  ∀ (s : State) (c : Instr), s.phase = .busy c →
    (∀ k : Fin 4, c ≠ .expandKey →
      busAccess (readOf (BitVec.ofNat 12 (0x020 + 4 * k.val))) s =
        .next { s with
          log := .data (Config.anyRead s.draws) :: s.log, draws := s.draws + 1 }) ∧
      (∀ k : Fin 44, c ∈ [Instr.expandKey, .encryptBlock, .decryptBlock] →
        busAccess (readOf (BitVec.ofNat 12 (0x100 + 4 * k.val))) s =
          .next { s with
            log := .data (Config.anyRead s.draws) :: s.log, draws := s.draws + 1 })

/-- Whenever a read, of any size and offset, answers a next state, the core's registers and phase, the reset pin, the host program and the schedule are what they were. (derived: R62, R54) -/
def Obligations.ReadsChangeNoCoreState : Prop :=
  ∀ (a : Access) (s t : State), a.kind = .read → busAccess a s = .next t →
    t.toRegs = s.toRegs ∧ t.rstN = s.rstN ∧ t.host = s.host ∧ t.sched = s.sched

/-- In every state, a write of v to CTRL answers ok and sets CTRL[1:0] to v[1:0] only; a write of v to STATUS answers ok, clears DONE if v[1] = 1, clears ERR and ERRCODE if v[2] = 1, leaves them otherwise, and ignores every other bit of v. (derived: R55, R60, R27, R28, R30, R109) -/
def Obligations.ControlAndStatusWrites : Prop :=
  ∀ (s : State) (v : Word),
    busAccess (writeOf 0x000#12 v) s =
        .next { s with ctrl := v.extractLsb' 0 2, log := .ok :: s.log } ∧
      busAccess (writeOf 0x008#12 v) s =
        .next { s with
          done := s.done && !v.getLsbD 1
          err := s.err && !v.getLsbD 2
          errCode := if v.getLsbD 2 then 0 else s.errCode
          log := .ok :: s.log }

/-- In a state with no command in flight, a write of v to KEYk, STATEk or RKINk answers ok and makes that one word v; the other three words of the group and every other field are unchanged, but RKV, which a KEY write clears. (derived: R55, R31, R32, R33, R29) -/
def Obligations.OperandWritesWhenIdle : Prop :=
  ∀ (s : State) (v : Word) (k : Fin 4), s.phase = .idle →
    (∃ b, busAccess (writeOf (BitVec.ofNat 12 (0x010 + 4 * k.val)) v) s =
        .next { s with key := b, rkv := false, log := .ok :: s.log } ∧
        ∀ j : Fin 4, blockWord b j = if j = k then v else blockWord s.key j) ∧
      (∃ b, busAccess (writeOf (BitVec.ofNat 12 (0x020 + 4 * k.val)) v) s =
        .next { s with state := b, log := .ok :: s.log } ∧
        ∀ j : Fin 4, blockWord b j = if j = k then v else blockWord s.state j) ∧
      (∃ b, busAccess (writeOf (BitVec.ofNat 12 (0x030 + 4 * k.val)) v) s =
        .next { s with rkin := b, log := .ok :: s.log } ∧
        ∀ j : Fin 4, blockWord b j = if j = k then v else blockWord s.rkin j)

/-- In a state with a command in flight, a write of any word to KEYk, STATEk or RKINk answers ok, sets ERR, sets ERRCODE to 2 if ERR was 0 and keeps it otherwise, and changes nothing else: the register keeps its value and RKV is unchanged. (stated: R107) -/
def Obligations.OperandWritesWhileBusyAreDiscarded : Prop :=
  ∀ (s : State) (v : Word) (k : Fin 4) (c : Instr), s.phase = .busy c →
    ∀ first ∈ [0x010, 0x020, 0x030],
      busAccess (writeOf (BitVec.ofNat 12 (first + 4 * k.val)) v) s =
        .next { s with
          err := true, errCode := if s.err then s.errCode else 0x2#4, log := .ok :: s.log }

/-- raise CmdError(code) writes ERRCODE (1 for ILLEGAL_CMD, 2 for BUSY_VIOLATION) if ERR was 0, leaves ERRCODE if ERR was 1, sets ERR, and changes nothing else. (stated: R201) -/
def Obligations.FirstErrorCodeIsKept : Prop :=
  ∀ r : Regs,
    (r.err = false → raiseCmdError .illegalCmd r = { r with err := true, errCode := 0x1#4 } ∧
      raiseCmdError .busyViolation r = { r with err := true, errCode := 0x2#4 }) ∧
      (r.err = true → ∀ e : CmdError, raiseCmdError e r = r)

/-- For every state of the core, irq is 1 exactly when bit 1 of the STATUS word and bit 0 of the CTRL word are 1, or bit 2 of the STATUS word and bit 1 of the CTRL word are 1. (derived: R36, R210) -/
def Obligations.InterruptIsTheLevelOfEnabledCauses : Prop :=
  ∀ r : Regs,
    irq r = ((statusWord r).getLsbD 1 && (ctrlWord r).getLsbD 0 ||
      (statusWord r).getLsbD 2 && (ctrlWord r).getLsbD 1)

/-- For every state of the core, bit 0 of the STATUS word is 1 exactly when a command is in flight, bits 1, 2 and 3 are DONE, ERR and RKV, bits 7:4 are ERRCODE, bits 31:8 are 0; bits 31:2 of the CTRL word are 0. (derived: R26, R27, R28, R29, R30, R24, R60) -/
def Obligations.StatusAndControlWordLayout : Prop :=
  ∀ r : Regs,
    ((statusWord r).getLsbD 0 = true ↔ ∃ c, r.phase = .busy c) ∧
      (statusWord r).getLsbD 1 = r.done ∧ (statusWord r).getLsbD 2 = r.err ∧
      (statusWord r).getLsbD 3 = r.rkv ∧ (statusWord r).extractLsb' 4 4 = r.errCode ∧
      (statusWord r).extractLsb' 8 24 = 0 ∧ (ctrlWord r).extractLsb' 0 2 = r.ctrl ∧
      (ctrlWord r).extractLsb' 2 30 = 0

/-- At the host's turn a WAIT line reads STATUS; while a command is in flight the line stays next, else it is done. With an empty schedule and no command in flight the line is done in the same way, with no turn to take. Nothing else changes but the turn taken and the answer. The host program and the schedule are the model's own fields (log entry 1), and so is the host's turn with an empty schedule (log entry 6). (derived: R90, R54) -/
def Obligations.WaitPollsUntilNotBusy : Prop :=
  ∀ (s : State) (hs : List HostOp) (ts : List Turn), s.rstN = true → s.host = .wait :: hs →
    (s.sched = .host :: ts →
      step s =
        .next { s with
          sched := ts
          log := .data (statusWord s.toRegs) :: s.log
          host := if s.phase = .idle then hs else .wait :: hs }) ∧
      (s.sched = [] → s.phase = .idle →
        step s = .next { s with log := .data (statusWord s.toRegs) :: s.log, host := hs })

/-- From a state with no command in flight, reset released and MOVRK r (r = 0..10) next in the host program, with eight host turns next in the schedule or with an empty schedule, eight steps end with RKIN = round key r of RK, every other register of the core unchanged, reset released, the lines done and the eight turns taken. The host program and the schedule are the model's own fields (log entry 1), an empty schedule gives the host the turn when no command is in flight (log entry 6), and each write takes the data of the latest answer, the read before it (log entry 16). (derived: R90, R163, R147, R67) -/
def Obligations.MoveRoundKeyCopiesIt : Prop :=
  ∀ (s : State) (r : Nat) (hs : List HostOp) (ts : List Turn), r ≤ 10 → s.rstN = true →
    s.phase = .idle → (s.sched = List.replicate 8 .host ++ ts ∨ s.sched = [] ∧ ts = []) →
    s.host = pseudoMovRk r ++ hs →
    ∃ t : State, Host.Core.run core 8 s = .next t ∧
      t.toRegs = { s.toRegs with
        rkin := ⟨scheduleWord s.rk (4 * r), scheduleWord s.rk (4 * r + 1),
          scheduleWord s.rk (4 * r + 2), scheduleWord s.rk (4 * r + 3)⟩ } ∧
      t.rstN = true ∧ t.host = hs ∧ t.sched = ts

/-- State.reset has no command in flight, CTRL 0, a STATUS word of 0, KEY, STATE and RKIN 0, every RK word 0, irq 0, and every register of the map holds 0; at that state SBOX[0x00] = 0x63, INVSBOX[0x63] = 0x00 and RCON[1] = 0x01, for the tables are constants. (stated: R38) -/
def Obligations.ResetState : Prop :=
  State.reset.phase = .idle ∧ State.reset.ctrl = 0 ∧ statusWord State.reset.toRegs = 0 ∧
    State.reset.errCode = 0 ∧ State.reset.key = ⟨0, 0, 0, 0⟩ ∧ State.reset.state = ⟨0, 0, 0, 0⟩ ∧
    State.reset.rkin = ⟨0, 0, 0, 0⟩ ∧ (∀ i : Fin 44, State.reset.rk[i.val] = 0) ∧
    irq State.reset.toRegs = false ∧ (∀ g : Reg, heldValue g State.reset.toRegs = 0) ∧
    (sbox 0x00#8 = 0x63#8 ∧ invSbox 0x63#8 = 0x00#8 ∧ rcon 1 = 0x01#8)

/-- Whenever rst_n falls, whatever the state, the step answers the state with the phase IDLE, CTRL, STATUS, KEY, STATE, RKIN and RK 0 and reset asserted; when it rises from low the core is again at its reset values and reset is released. A step that ends a command in flight and leaves DONE 0 is taken in reset or asserts it: there is no other way to abort. The host program and the answers are kept, but for an access outstanding as the pin falls (log entry 13). (derived: R230, R231, R232) -/
def Obligations.ResetAbandonsTheCommand : Prop :=
  ∀ (s : State) (ts : List Turn),
    (s.sched = .resetAssert :: ts →
      step s = .next { s with toRegs := Regs.reset, rstN := false, sched := ts }) ∧
      (s.sched = .resetLosingAccess :: ts →
        ∃ t, step s = .next t ∧ t.toRegs = Regs.reset ∧ t.rstN = false ∧ t.sched = ts) ∧
      (s.sched = .resetRelease :: ts → s.rstN = false →
        step s = .next { s with toRegs := Regs.reset, rstN := true, sched := ts }) ∧
      (Regs.reset.phase = .idle ∧ Regs.reset.done = false ∧ Regs.reset.err = false ∧
        Regs.reset.rkv = false ∧ Regs.reset.errCode = 0 ∧ Regs.reset.ctrl = 0 ∧
        Regs.reset.key = ⟨0, 0, 0, 0⟩ ∧ Regs.reset.state = ⟨0, 0, 0, 0⟩ ∧
        Regs.reset.rkin = ⟨0, 0, 0, 0⟩ ∧ ∀ i : Fin 44, Regs.reset.rk[i.val] = 0) ∧
      (∀ (t : State) (c : Instr), s.phase = .busy c → step s = .next t → t.phase ≠ .busy c →
        t.done = false → s.rstN = false ∨ t.rstN = false)

/-- With rst_n low, a host turn leaves the host program and the answers as they are and the core at its reset values, and so does an engine turn. When rst_n falls with an access outstanding, that access leaves the host program with the answer lost; when no line is left, or the pin is low already, the turn loses nothing and adds no answer. Whatever the turn, an empty schedule among them, a step with rst_n low answers a state with the host program, the answers and the count of draws as they were, the core at its reset values and the turn taken. The turns are the model's own form of this (log entry 13), and so are the host and schedule fields (log entry 1). (derived: R232, R230) -/
def Obligations.NoServiceWhileInReset : Prop :=
  ∀ (s : State) (ts : List Turn) (op : HostOp) (hs : List HostOp),
    (s.rstN = false → s.sched = .host :: ts →
      step s = .next { s with toRegs := Regs.reset, sched := ts }) ∧
      (s.rstN = false → s.sched = .engine :: ts →
        step s = .next { s with toRegs := Regs.reset, sched := ts }) ∧
      (s.rstN = true → s.host = op :: hs → s.sched = .resetLosingAccess :: ts →
        step s = .next { s with
          toRegs := Regs.reset, rstN := false, sched := ts, host := hs, log := .lost :: s.log }) ∧
      (s.host = [] ∨ s.rstN = false → s.sched = .resetLosingAccess :: ts →
        step s = .next { s with toRegs := Regs.reset, rstN := false, sched := ts }) ∧
      (s.rstN = false → s.sched = [] → step s = .next { s with toRegs := Regs.reset }) ∧
      (s.rstN = false → ∃ t, step s = .next t ∧ t.toRegs = Regs.reset ∧ t.host = s.host ∧
        t.log = s.log ∧ t.draws = s.draws ∧ t.sched = s.sched.tail)

/-- For every state that meets both invariants of R40, if a step answers a next state, that state meets them; the reset state meets them. (stated: R40) -/
def Obligations.StepKeepsPhaseInvariants : Prop :=
  phaseInv State.reset.toRegs ∧
    ∀ s t : State, phaseInv s.toRegs → step s = .next t → phaseInv t.toRegs

/-- For every state in which RKV = 1 implies RK[i] = ExpandKey(KEY) word i for i = 0..43, if a step answers a next state, the same holds of it; it holds of the reset state. (stated: R39) -/
def Obligations.StepKeepsRoundKeysValid : Prop :=
  rkvInv State.reset.toRegs ∧ ∀ s t : State, rkvInv s.toRegs → step s = .next t → rkvInv t.toRegs

/-- For every state whose ERRCODE is 0x0, 0x1 or 0x2, if a step answers a next state, its ERRCODE is 0x0, 0x1 or 0x2; so it is at reset. (derived: R202, 93_implementation_defined.md F9) -/
def Obligations.StepKeepsErrorCodeDefined : Prop :=
  errorCodeInv State.reset.toRegs ∧
    ∀ s t : State, errorCodeInv s.toRegs → step s = .next t → errorCodeInv t.toRegs

/-- For every state in which rst_n low implies that every piece of the core's state is at its reset value, if a step answers a next state, the same holds of it; so it does at reset. (derived: R230, R232) -/
def Obligations.StepHoldsTheCoreInReset : Prop :=
  resetInv State.reset ∧ ∀ s t : State, resetInv s → step s = .next t → resetInv t

/-- At State.reset: BUSY = 1 implies DONE = 0, ERR = 0 iff ERRCODE = 0, ERRCODE is a defined code, RKV = 1 implies RK is the schedule of KEY, and rst_n low implies reset values; rst_n is high, which is the model's choice (log entries 6 and 13). (derived: R38, R39, R40, R202, R230) -/
def Obligations.ResetMeetsTheInvariants : Prop :=
  phaseInv State.reset.toRegs ∧ errorCodeInv State.reset.toRegs ∧ rkvInv State.reset.toRegs ∧
    resetInv State.reset ∧ State.reset.rstN = true

/-- If a command c is in flight and a step that is not in reset answers t: KEY, RKIN are as they were; and either c is still in flight with STATE, RK and RKV as they were, or c has completed, with DONE 1. (derived: R105, R107, R31, R33) -/
def Obligations.OperandsHeldWhileBusy : Prop :=
  ∀ (s t : State) (c : Instr), s.phase = .busy c → step s = .next t → s.rstN = true →
    t.rstN = true →
    t.key = s.key ∧ t.rkin = s.rkin ∧
      (t.phase = .busy c ∧ t.state = s.state ∧ t.rk = s.rk ∧ t.rkv = s.rkv ∨
        t.phase = .idle ∧ t.done = true)

/-- For every step out of reset: CTRL changes only by a host write of CTRL, to its bits 1:0; BUSY and the phase only by the acceptance or the completion of a command; DONE goes to 1 only at a completion and to 0 only at an acceptance or by a STATUS write with bit 1 set; RKV goes to 1 only at the completion of EXPAND_KEY, ENCRYPT_BLOCK or DECRYPT_BLOCK and to 0 only at their acceptance or by a KEY write with no command in flight; ERR and ERRCODE change only by a STATUS write with bit 2 set, which clears both, or by a command error, which sets ERR and keeps a code that is held; KEY, RKIN and STATE change by a host write of one of their words with no command in flight, and else only STATE, at the completion of a command other than EXPAND_KEY; RK changes only at the completion of those three commands, to the schedule of KEY; a completion leaves CTRL, ERR, ERRCODE, KEY and RKIN. That the host writes is told by the model's own host and schedule fields (log entry 1). (derived: R41, R24, R26, R27, R28, R29, R30, R31, R32, R33, R34) -/
def Obligations.OnlyTheirEventsWriteRegisters : Prop :=
  ∀ s t : State, stepsTo s t →
    (t.ctrl ≠ s.ctrl → ∃ v, hostWrites s .ctrl v ∧ t.ctrl = v.extractLsb' 0 2) ∧
      (t.phase ≠ s.phase → (∃ c, accepts c s t) ∨ ∃ c, completes c s t) ∧
      (s.done = false → t.done = true → ∃ c, completes c s t) ∧
      (s.done = true → t.done = false →
        (∃ c, accepts c s t) ∨ ∃ v, hostWrites s .status v ∧ v.getLsbD 1 = true) ∧
      (s.rkv = false → t.rkv = true →
        ∃ c ∈ [Instr.expandKey, .encryptBlock, .decryptBlock], completes c s t) ∧
      (s.rkv = true → t.rkv = false →
        (∃ c ∈ [Instr.expandKey, .encryptBlock, .decryptBlock], accepts c s t) ∨
          s.phase = .idle ∧ ∃ k v, hostWrites s (.key k) v) ∧
      (t.err ≠ s.err ∨ t.errCode ≠ s.errCode →
        (∃ v, hostWrites s .status v ∧ v.getLsbD 2 = true ∧ t.err = false ∧ t.errCode = 0) ∨
          ∃ e, makesError e s ∧ t.err = true ∧
            t.errCode = if s.err then s.errCode else errorCode e) ∧
      (t.key ≠ s.key → s.phase = .idle ∧ t.rkv = false ∧
        ∃ k v, hostWrites s (.key k) v ∧ t.key = setBlockWord s.key k v) ∧
      (t.rkin ≠ s.rkin → s.phase = .idle ∧
        ∃ k v, hostWrites s (.rkin k) v ∧ t.rkin = setBlockWord s.rkin k v) ∧
      (t.state ≠ s.state →
        (s.phase = .idle ∧ ∃ k v, hostWrites s (.state k) v ∧ t.state = setBlockWord s.state k v) ∨
          ∃ c, c ≠ .expandKey ∧ completes c s t) ∧
      (t.rk ≠ s.rk → ∃ c ∈ [Instr.expandKey, .encryptBlock, .decryptBlock],
        completes c s t ∧ t.rk = expandKey s.key) ∧
      (∀ c, completes c s t →
        t.ctrl = s.ctrl ∧ t.err = s.err ∧ t.errCode = s.errCode ∧ t.key = s.key ∧ t.rkin = s.rkin)

/-- Two states with the same STATE and KEY, whatever their RK, RKV, CTRL, STATUS and RKIN, each with the same block command in flight, complete with the same STATE and the same RK. (derived: R176, R172, R173) -/
def Obligations.BlockResultDependsOnStateAndKeyOnly : Prop :=
  ∀ (s1 s2 : State) (c : Instr), c = .encryptBlock ∨ c = .decryptBlock →
    s1.phase = .busy c → s2.phase = .busy c → s1.state = s2.state → s1.key = s2.key →
    ∃ t1 t2, exec c s1 = .next t1 ∧ exec c s2 = .next t2 ∧ t1.state = t2.state ∧ t1.rk = t2.rk

/-- For every state with ERR = 0, in either phase, and every word v, if the write of v to CMD answers a state with ERR = 0, then no command was in flight, v decodes to a command, and that command is now in flight with DONE 0. (derived: R239, R102, R103) -/
def Obligations.NoErrorAfterCommandWriteMeansAccepted : Prop :=
  ∀ (s t : State) (v : Word), s.err = false → busAccess (writeOf 0x004#12 v) s = .next t →
    t.err = false →
    s.phase = .idle ∧ ∃ i, decode v = .ok i ∧ t.phase = .busy i ∧ t.done = false

/-- From a state with command c in flight and reset released, after any number n of host turns and then one engine turn, provided the host's accesses are not of the reserved size, the machine is in a state with the phase IDLE and DONE 1 whose STATE, RK, RKV, KEY and RKIN are those that completing c at once gives. The host program and the schedule are the model's own fields (log entry 1). (derived: R105, R110, R67, R107) -/
def Obligations.AcceptedCommandCompletesUnderAnyHostAccesses : Prop :=
  ∀ (n : Nat) (s : State) (c : Instr) (ts : List Turn), s.rstN = true → s.phase = .busy c →
    s.sched = List.replicate n .host ++ .engine :: ts →
    (∀ op ∈ s.host, ∀ a, op = .access a → a.size ≠ .reserved) →
    ∃ t u : State, Host.Core.run core (n + 1) s = .next t ∧ exec c s = .next u ∧
      t.phase = .idle ∧ t.done = true ∧ t.state = u.state ∧ t.rk = u.rk ∧ t.rkv = u.rkv ∧
      t.key = s.key ∧ t.rkin = s.rkin

/-- BASE mod 4096 = 0; the platform address of every offset lies in the window and gives that offset back; an address outside BASE .. BASE + 4095 gives none; LAT(op) is at least 1 for every command. (derived: R10, R65, R50) -/
def Obligations.BaseAndLatencyAreAdmissible : Prop :=
  Config.base % 4096 = 0 ∧ (∀ off : BitVec 12, windowOffset (busAddress off) = some off) ∧
    (∀ addr : Nat, addr < Config.base ∨ Config.base + 4096 ≤ addr → windowOffset addr = none) ∧
    ∀ i : Instr, 1 ≤ Config.latency i

/-- For all bytes: gmul a b = gmul b a; gmul (gmul a b) c = gmul a (gmul b c); gmul a (b xor c) = gmul a b xor gmul a c; gmul 0 x = 0; gmul 1 x = x; xtime a = gmul 2 a; and gmul 0x57 0x83 = 0xC1. (derived: R121, R122, R123) -/
def Obligations.FieldDoublingAndProductLaws : Prop :=
  (∀ a b : Byte, gmul a b = gmul b a) ∧
    (∀ a b c : Byte, gmul (gmul a b) c = gmul a (gmul b c)) ∧
    (∀ a b c : Byte, gmul a (b ^^^ c) = gmul a b ^^^ gmul a c) ∧
    (∀ x : Byte, gmul 0x00#8 x = 0x00#8 ∧ gmul 0x01#8 x = x ∧ gmul 0x02#8 x = xtime x) ∧
    gmul 0x57#8 0x83#8 = 0xC1#8

/-- For a not 0, gmul a (inverse a) = 1, and any b with gmul a b = 1 is inverse a; for every a, inverse a is the product of 254 copies of a; inverse 0 = 0; inverse 0x53 = 0xCA. (stated: R124) -/
def Obligations.FieldInverse : Prop :=
  (∀ a : Byte, a ≠ 0 → gmul a (ginverse a) = 0x01#8 ∧
      ∀ b : Byte, gmul a b = 0x01#8 → b = ginverse a) ∧
    (∀ a : Byte, ginverse a = gpow a 254) ∧ ginverse 0x00#8 = 0x00#8 ∧ ginverse 0x53#8 = 0xCA#8

/-- SBOX[b] = AffineTransform(inverse(b)) for every byte b, with the affine transform bit by bit as R125 gives it. (derived: R126, R125) -/
def Obligations.SboxTableIsTheAffineInverse : Prop :=
  (∀ b : Byte, sbox b = affine (ginverse b)) ∧
    ∀ (s : Byte) (i : Fin 8), (affine s).getLsbD i.val =
      (s.getLsbD i.val ^^ s.getLsbD ((i.val + 4) % 8) ^^ s.getLsbD ((i.val + 5) % 8) ^^
        s.getLsbD ((i.val + 6) % 8) ^^ s.getLsbD ((i.val + 7) % 8) ^^ (0x63#8).getLsbD i.val)

/-- INVSBOX[SBOX[b]] = b and SBOX[INVSBOX[b]] = b for every b; SBOX takes distinct values at distinct bytes; SBOX[b] is never b and never b xor 0xFF. (stated: R128) -/
def Obligations.SboxTablesArePermutations : Prop :=
  (∀ b : Byte, invSbox (sbox b) = b) ∧ (∀ b : Byte, sbox (invSbox b) = b) ∧
    (∀ a b : Byte, sbox a = sbox b → a = b) ∧
    (∀ b : Byte, sbox b ≠ b) ∧ (∀ b : Byte, sbox b ≠ b ^^^ 0xFF#8)

/-- RCON[1] = 0x01 and RCON[j + 1] = xtime(RCON[j]) for j = 1..9; RotWord takes a0 a1 a2 a3 to a1 a2 a3 a0; SubWord takes it to the S-box values of the four bytes in place. (derived: R129, R130, R131) -/
def Obligations.RoundConstantsAndWordFunctions : Prop :=
  rcon 1 = 0x01#8 ∧ (∀ j, 1 ≤ j → j ≤ 9 → rcon (j + 1) = xtime (rcon j)) ∧
    (∀ a0 a1 a2 a3 : Byte, rotWord (a0 ++ a1 ++ a2 ++ a3) = a1 ++ a2 ++ a3 ++ a0) ∧
    (∀ a0 a1 a2 a3 : Byte,
      subWord (a0 ++ a1 ++ a2 ++ a3) = sbox a0 ++ sbox a1 ++ sbox a2 ++ sbox a3)

/-- For all blocks: InvSubBytes, InvShiftRows and InvMixColumns undo SubBytes, ShiftRows and MixColumns and the other way round; AddRoundKey with the same key twice gives the block back; ShiftRows and SubBytes commute. For each of the seven pairs of a command and its inverse command: whatever steps out of reset come between the CMD write and the completion of each, and between the two commands whatever steps that make no host write to STATE and run no command but EXPAND_KEY, with RKIN as it was for a pair of ADD_ROUND_KEY, the second completes with STATE as it was before the first; and from every state with no command in flight the two executed back to back answer such a state. The host and schedule fields that tell of a host write are the model's own (log entry 1). (derived: R148, R141, R142, R143, R144, R145, R146, R147) -/
def Obligations.TransformsAreInvertedByTheirInverses : Prop :=
  (∀ b : Block, invSubBytes (subBytes b) = b ∧ subBytes (invSubBytes b) = b ∧
      invShiftRows (shiftRows b) = b ∧ shiftRows (invShiftRows b) = b ∧
      invMixColumns (mixColumns b) = b ∧ mixColumns (invMixColumns b) = b ∧
      shiftRows (subBytes b) = subBytes (shiftRows b)) ∧
    (∀ b k : Block, addRoundKey (addRoundKey b k) k = b) ∧
    ∀ p ∈ [(Instr.subBytes, Instr.invSubBytes), (.invSubBytes, .subBytes),
        (.shiftRows, .invShiftRows), (.invShiftRows, .shiftRows), (.mixColumns, .invMixColumns),
        (.invMixColumns, .mixColumns), (.addRoundKey, .addRoundKey)],
      (∀ s a b t : State, commandRun p.1 s a → Relation.ReflTransGen betweenStep a b →
        (p.1 = .addRoundKey → b.rkin = a.rkin) → commandRun p.2 b t → t.state = s.state) ∧
        ∀ s : State, s.phase = .idle →
          ∃ t, inOrder [executed p.1, executed p.2] s = .next t ∧ t.state = s.state

/-- For every key k: words 0..3 of ExpandKey(k) are the four words of k, round key 0 is k, the output is 44 words, and w[i] = w[i-4] xor w[i-1] for i from 4 to 43 with i mod 4 not 0; after EXPAND_KEY completes, RK[0..3] are KEY0..KEY3. (stated: R162) -/
def Obligations.ExpansionStartsWithTheKey : Prop :=
  (∀ k : Block, roundKey (expandKey k) 0 = k ∧ (expandKey k).toArray.size = 44 ∧
      ∀ (i : Nat) (_ : i < 44), 4 ≤ i → i % 4 ≠ 0 →
        (expandKey k)[i] = (expandKey k)[i - 4] ^^^ (expandKey k)[i - 1]) ∧
    ∀ s : State, s.phase = .busy .expandKey →
      ∃ t, exec .expandKey s = .next t ∧ t.rk[0] = t.key.w0 ∧ t.rk[1] = t.key.w1 ∧
        t.rk[2] = t.key.w2 ∧ t.rk[3] = t.key.w3

/-- InvCipher(Cipher(p, ExpandKey(k)), ExpandKey(k)) = p and Cipher(InvCipher(p, ExpandKey(k)), ExpandKey(k)) = p for every key k and block p; whatever steps out of reset come between the CMD write and the completion of ENCRYPT_BLOCK and of DECRYPT_BLOCK, and between the two whatever steps that make no host write to STATE, run no command but EXPAND_KEY and leave KEY as it was, the second completes with STATE as it was before the first, in either order of the two; and from every state with no command in flight the two executed back to back answer such a state. The host and schedule fields that tell of a host write are the model's own (log entry 1). (derived: R174, R172, R173) -/
def Obligations.DecryptionInvertsEncryption : Prop :=
  (∀ k p : Block, invCipher (cipher p (expandKey k)) (expandKey k) = p ∧
      cipher (invCipher p (expandKey k)) (expandKey k) = p) ∧
    ∀ p ∈ [(Instr.encryptBlock, Instr.decryptBlock), (.decryptBlock, .encryptBlock)],
      (∀ s a b t : State, commandRun p.1 s a → Relation.ReflTransGen betweenStep a b →
        b.key = a.key → commandRun p.2 b t → t.state = s.state) ∧
        ∀ s : State, s.phase = .idle →
          ∃ t, inOrder [executed p.1, executed p.2] s = .next t ∧ t.state = s.state

/-- From every state with no command in flight, EXPAND_KEY, the moves of round keys to RKIN and the single round commands in the order of R175 (of R171 for decryption), each completed before the next, end with the STATE, KEY and RK that ENCRYPT_BLOCK (DECRYPT_BLOCK) ends with. (derived: R175, R170, R171) -/
def Obligations.BlockCommandsEqualTheirCommandSequences : Prop :=
  ∀ s : State, s.phase = .idle →
    (∃ t u, inOrder encryptSequence s = .next t ∧ executed .encryptBlock s = .next u ∧
        t.state = u.state ∧ t.key = u.key ∧ t.rk = u.rk) ∧
      (∃ t u, inOrder decryptSequence s = .next t ∧ executed .decryptBlock s = .next u ∧
        t.state = u.state ∧ t.key = u.key ∧ t.rk = u.rk)

/-- For every command c and state with c in flight, the reference engine started on it is, after each number of cycles below its reference latency, not idle, with BUSY 1, DONE 0 and RKV 0 for a command that writes the schedule and unchanged for another; after its reference latency it is idle, with BUSY 0, DONE 1 and the STATE, RK and RKV of the state that exec c answers. For every state with no command in flight, the engine starts as it does on the state that exec c answers, and with the BUSY, DONE and RKV of that state. (derived: R180, R181, R182, R183, R184, R185, R186, R101, R104) -/
def Obligations.ReferenceFsmMeetsTheContract : Prop :=
  (∀ (c : Instr) (s : State), s.phase = .busy c →
    (∀ n < Config.referenceLatency c, ∀ e, e = refRun n (refAccept c s.toRegs) →
      e.fsm ≠ .idle ∧ refBusy e = true ∧ e.done = false ∧
        e.rkv = if writesSchedule c then false else s.rkv) ∧
      ∃ t, exec c s = .next t ∧
        ∀ e, e = refRun (Config.referenceLatency c) (refAccept c s.toRegs) →
          e.fsm = .idle ∧ refBusy e = false ∧ e.done = true ∧ e.done = t.done ∧ e.rkv = t.rkv ∧
            e.state = t.state ∧ e.rk = t.rk) ∧
    ∀ (c : Instr) (s : State), s.phase = .idle →
      ∃ t, exec c s = .next t ∧ refAccept c s.toRegs = refAccept c t.toRegs ∧
        refBusy (refAccept c s.toRegs) = isBusy t.toRegs ∧ (refAccept c s.toRegs).done = t.done ∧
        (refAccept c s.toRegs).rkv = t.rkv
end

