-- ==== Sys2Proof/Laws/Blocks.lean ====
section
/-! SUPPORT. The byte view of a 16-byte block: reading the bytes a block was built from, and two blocks
with the same bytes. -/

namespace Sys2Proof.Machine

/-- The four bytes of a word built from bytes. -/
theorem wordByte_wordOfBytes (a0 a1 a2 a3 : Byte) :
    wordByte (wordOfBytes a0 a1 a2 a3) 0 = a0 ∧ wordByte (wordOfBytes a0 a1 a2 a3) 1 = a1 ∧
      wordByte (wordOfBytes a0 a1 a2 a3) 2 = a2 ∧ wordByte (wordOfBytes a0 a1 a2 a3) 3 = a3 := by
  refine ⟨?_, ?_, ?_, ?_⟩ <;> ext i hi <;> simp [wordByte, wordOfBytes] <;> grind

/-- A word is built from its four bytes. -/
theorem wordOfBytes_wordByte (w : Word) :
    wordOfBytes (wordByte w 0) (wordByte w 1) (wordByte w 2) (wordByte w 3) = w := by
  ext i hi; simp [wordByte, wordOfBytes]; grind

/-- The byte index counts modulo 4 inside a word. -/
theorem wordByte_mod (w : Word) (i : Nat) : wordByte w i = wordByte w (i % 4) := by
  simp [wordByte]

/-- Byte i of a block built from bytes. -/
theorem blockByte_blockOfBytes (f : Nat → Byte) (i : Nat) (h : i < 16) :
    blockByte (blockOfBytes f) i = f i := by
  have w := fun a0 a1 a2 a3 => wordByte_wordOfBytes a0 a1 a2 a3
  rw [blockByte, wordByte_mod]
  interval_cases i <;> simp [blockWord, blockOfBytes, w]

/-- A block is built from its sixteen bytes. -/
theorem blockOfBytes_blockByte (b : Block) : blockOfBytes (blockByte b) = b := by
  simp [blockOfBytes, blockByte, blockWord, wordByte_mod _ 4, wordByte_mod _ 5, wordByte_mod _ 6,
    wordByte_mod _ 7, wordByte_mod _ 8, wordByte_mod _ 9, wordByte_mod _ 10, wordByte_mod _ 11,
    wordByte_mod _ 12, wordByte_mod _ 13, wordByte_mod _ 14, wordByte_mod _ 15, wordOfBytes_wordByte]

/-- Two blocks with the same sixteen bytes are equal. -/
theorem block_eq_of_bytes (a b : Block) (h : ∀ i < 16, blockByte a i = blockByte b i) : a = b := by
  rw [← blockOfBytes_blockByte a, ← blockOfBytes_blockByte b]
  simp [blockOfBytes, h]

/-- Two byte functions that agree on 0..15 build the same block. -/
theorem blockOfBytes_congr (f g : Nat → Byte) (h : ∀ i < 16, f i = g i) :
    blockOfBytes f = blockOfBytes g := by
  simp [blockOfBytes, h]

end Sys2Proof.Machine
end

