-- ==== Sys2Proof/Laws/Exec.lean ====
section
/-! SUPPORT. What `exec` can do, said once for all commands: it always answers a next state, in which only
the core's registers may differ. -/

namespace Sys2Proof.Machine

/-- The effect of a command on the core's registers at completion, flags apart
(spec/40_command_execution.md R104). -/
def commandEffect (i : Instr) (r : Regs) : Regs :=
  match i with
  | .subBytes => { r with state := subBytes r.state }
  | .invSubBytes => { r with state := invSubBytes r.state }
  | .shiftRows => { r with state := shiftRows r.state }
  | .invShiftRows => { r with state := invShiftRows r.state }
  | .mixColumns => { r with state := mixColumns r.state }
  | .invMixColumns => { r with state := invMixColumns r.state }
  | .addRoundKey => { r with state := addRoundKey r.state r.rkin }
  | .expandKey => { r with rk := expandKey r.key, rkv := true }
  | .encryptBlock =>
    { r with state := cipher r.state (expandKey r.key), rk := expandKey r.key, rkv := true }
  | .decryptBlock =>
    { r with state := invCipher r.state (expandKey r.key), rk := expandKey r.key, rkv := true }

/-- `exec` answers the next event in the life of the command. -/
theorem exec_eq (i : Instr) (s : State) :
    exec i s = .next { s with toRegs := commandEvent i (commandEffect i) s.toRegs } := by
  cases i <;> rfl

/-- With no command in flight the event is acceptance. -/
theorem commandEvent_idle (c : Instr) (f : Regs → Regs) (r : Regs) (h : r.phase = .idle) :
    commandEvent c f r = acceptFlags c r := by
  simp [commandEvent, h]

/-- With the command itself in flight the event is its completion. -/
theorem commandEvent_inFlight (c : Instr) (f : Regs → Regs) (r : Regs) (h : r.phase = .busy c) :
    commandEvent c f r = completeFlags (f r) := by
  simp [commandEvent, h]

/-- With another command in flight the command is turned away. -/
theorem commandEvent_otherInFlight (c d : Instr) (f : Regs → Regs) (r : Regs) (h : r.phase = .busy d)
    (hd : d ≠ c) : commandEvent c f r = raiseCmdError .busyViolation r := by
  simp [commandEvent, h, hd]

/-- The effect of a command writes STATE, RK and RKV only, as its write set says. -/
theorem commandEffect_frame (i : Instr) (r : Regs) :
    (commandEffect i r).ctrl = r.ctrl ∧ (commandEffect i r).phase = r.phase ∧
      (commandEffect i r).done = r.done ∧ (commandEffect i r).err = r.err ∧
      (commandEffect i r).errCode = r.errCode ∧ (commandEffect i r).key = r.key ∧
      (commandEffect i r).rkin = r.rkin ∧
      (writesState i = false → (commandEffect i r).state = r.state) ∧
      (writesSchedule i = false → (commandEffect i r).rk = r.rk ∧ (commandEffect i r).rkv = r.rkv) ∧
      (writesSchedule i = true →
        (commandEffect i r).rk = expandKey r.key ∧ (commandEffect i r).rkv = true) := by
  cases i <;> simp [commandEffect, writesState, writesSchedule]

end Sys2Proof.Machine
end

