-- ==== Sys2Proof/Laws/State.lean ====
section
/-! SUPPORT. What each named update of the core's registers and of the machine does to each field. -/

namespace Sys2Proof.Machine

@[simp] theorem acceptFlags_ctrl (c : Instr) (r : Regs) : (acceptFlags c r).ctrl = r.ctrl := rfl
@[simp] theorem acceptFlags_phase (c : Instr) (r : Regs) : (acceptFlags c r).phase = .busy c := rfl
@[simp] theorem acceptFlags_done (c : Instr) (r : Regs) : (acceptFlags c r).done = false := rfl
@[simp] theorem acceptFlags_err (c : Instr) (r : Regs) : (acceptFlags c r).err = r.err := rfl
@[simp] theorem acceptFlags_rkv (c : Instr) (r : Regs) : (acceptFlags c r).rkv = if writesSchedule c then false else r.rkv := rfl
@[simp] theorem acceptFlags_errCode (c : Instr) (r : Regs) : (acceptFlags c r).errCode = r.errCode := rfl
@[simp] theorem acceptFlags_key (c : Instr) (r : Regs) : (acceptFlags c r).key = r.key := rfl
@[simp] theorem acceptFlags_state (c : Instr) (r : Regs) : (acceptFlags c r).state = r.state := rfl
@[simp] theorem acceptFlags_rkin (c : Instr) (r : Regs) : (acceptFlags c r).rkin = r.rkin := rfl
@[simp] theorem acceptFlags_rk (c : Instr) (r : Regs) : (acceptFlags c r).rk = r.rk := rfl

@[simp] theorem completeFlags_ctrl (r : Regs) : (completeFlags r).ctrl = r.ctrl := rfl
@[simp] theorem completeFlags_phase (r : Regs) : (completeFlags r).phase = .idle := rfl
@[simp] theorem completeFlags_done (r : Regs) : (completeFlags r).done = true := rfl
@[simp] theorem completeFlags_err (r : Regs) : (completeFlags r).err = r.err := rfl
@[simp] theorem completeFlags_rkv (r : Regs) : (completeFlags r).rkv = r.rkv := rfl
@[simp] theorem completeFlags_errCode (r : Regs) : (completeFlags r).errCode = r.errCode := rfl
@[simp] theorem completeFlags_key (r : Regs) : (completeFlags r).key = r.key := rfl
@[simp] theorem completeFlags_state (r : Regs) : (completeFlags r).state = r.state := rfl
@[simp] theorem completeFlags_rkin (r : Regs) : (completeFlags r).rkin = r.rkin := rfl
@[simp] theorem completeFlags_rk (r : Regs) : (completeFlags r).rk = r.rk := rfl

@[simp] theorem raiseCmdError_ctrl (e : CmdError) (r : Regs) : (raiseCmdError e r).ctrl = r.ctrl := rfl
@[simp] theorem raiseCmdError_phase (e : CmdError) (r : Regs) : (raiseCmdError e r).phase = r.phase := rfl
@[simp] theorem raiseCmdError_done (e : CmdError) (r : Regs) : (raiseCmdError e r).done = r.done := rfl
@[simp] theorem raiseCmdError_err (e : CmdError) (r : Regs) : (raiseCmdError e r).err = true := rfl
@[simp] theorem raiseCmdError_rkv (e : CmdError) (r : Regs) : (raiseCmdError e r).rkv = r.rkv := rfl
@[simp] theorem raiseCmdError_errCode (e : CmdError) (r : Regs) : (raiseCmdError e r).errCode = if r.err then r.errCode else errorCode e := rfl
@[simp] theorem raiseCmdError_key (e : CmdError) (r : Regs) : (raiseCmdError e r).key = r.key := rfl
@[simp] theorem raiseCmdError_state (e : CmdError) (r : Regs) : (raiseCmdError e r).state = r.state := rfl
@[simp] theorem raiseCmdError_rkin (e : CmdError) (r : Regs) : (raiseCmdError e r).rkin = r.rkin := rfl
@[simp] theorem raiseCmdError_rk (e : CmdError) (r : Regs) : (raiseCmdError e r).rk = r.rk := rfl

@[simp] theorem writeCtrl_ctrl (v : Word) (r : Regs) : (writeCtrl v r).ctrl = v.extractLsb' 0 2 := rfl
@[simp] theorem writeCtrl_phase (v : Word) (r : Regs) : (writeCtrl v r).phase = r.phase := rfl
@[simp] theorem writeCtrl_done (v : Word) (r : Regs) : (writeCtrl v r).done = r.done := rfl
@[simp] theorem writeCtrl_err (v : Word) (r : Regs) : (writeCtrl v r).err = r.err := rfl
@[simp] theorem writeCtrl_rkv (v : Word) (r : Regs) : (writeCtrl v r).rkv = r.rkv := rfl
@[simp] theorem writeCtrl_errCode (v : Word) (r : Regs) : (writeCtrl v r).errCode = r.errCode := rfl
@[simp] theorem writeCtrl_key (v : Word) (r : Regs) : (writeCtrl v r).key = r.key := rfl
@[simp] theorem writeCtrl_state (v : Word) (r : Regs) : (writeCtrl v r).state = r.state := rfl
@[simp] theorem writeCtrl_rkin (v : Word) (r : Regs) : (writeCtrl v r).rkin = r.rkin := rfl
@[simp] theorem writeCtrl_rk (v : Word) (r : Regs) : (writeCtrl v r).rk = r.rk := rfl

@[simp] theorem writeStatus_ctrl (v : Word) (r : Regs) : (writeStatus v r).ctrl = r.ctrl := rfl
@[simp] theorem writeStatus_phase (v : Word) (r : Regs) : (writeStatus v r).phase = r.phase := rfl
@[simp] theorem writeStatus_done (v : Word) (r : Regs) : (writeStatus v r).done = if v.getLsbD 1 then false else r.done := rfl
@[simp] theorem writeStatus_err (v : Word) (r : Regs) : (writeStatus v r).err = if v.getLsbD 2 then false else r.err := rfl
@[simp] theorem writeStatus_rkv (v : Word) (r : Regs) : (writeStatus v r).rkv = r.rkv := rfl
@[simp] theorem writeStatus_errCode (v : Word) (r : Regs) : (writeStatus v r).errCode = if v.getLsbD 2 then 0 else r.errCode := rfl
@[simp] theorem writeStatus_key (v : Word) (r : Regs) : (writeStatus v r).key = r.key := rfl
@[simp] theorem writeStatus_state (v : Word) (r : Regs) : (writeStatus v r).state = r.state := rfl
@[simp] theorem writeStatus_rkin (v : Word) (r : Regs) : (writeStatus v r).rkin = r.rkin := rfl
@[simp] theorem writeStatus_rk (v : Word) (r : Regs) : (writeStatus v r).rk = r.rk := rfl

@[simp] theorem writeKeyWord_ctrl (k : Fin 4) (v : Word) (r : Regs) : (writeKeyWord k v r).ctrl = r.ctrl := rfl
@[simp] theorem writeKeyWord_phase (k : Fin 4) (v : Word) (r : Regs) : (writeKeyWord k v r).phase = r.phase := rfl
@[simp] theorem writeKeyWord_done (k : Fin 4) (v : Word) (r : Regs) : (writeKeyWord k v r).done = r.done := rfl
@[simp] theorem writeKeyWord_err (k : Fin 4) (v : Word) (r : Regs) : (writeKeyWord k v r).err = r.err := rfl
@[simp] theorem writeKeyWord_rkv (k : Fin 4) (v : Word) (r : Regs) : (writeKeyWord k v r).rkv = false := rfl
@[simp] theorem writeKeyWord_errCode (k : Fin 4) (v : Word) (r : Regs) : (writeKeyWord k v r).errCode = r.errCode := rfl
@[simp] theorem writeKeyWord_key (k : Fin 4) (v : Word) (r : Regs) : (writeKeyWord k v r).key = setBlockWord r.key k v := rfl
@[simp] theorem writeKeyWord_state (k : Fin 4) (v : Word) (r : Regs) : (writeKeyWord k v r).state = r.state := rfl
@[simp] theorem writeKeyWord_rkin (k : Fin 4) (v : Word) (r : Regs) : (writeKeyWord k v r).rkin = r.rkin := rfl
@[simp] theorem writeKeyWord_rk (k : Fin 4) (v : Word) (r : Regs) : (writeKeyWord k v r).rk = r.rk := rfl

@[simp] theorem writeStateWord_ctrl (k : Fin 4) (v : Word) (r : Regs) : (writeStateWord k v r).ctrl = r.ctrl := rfl
@[simp] theorem writeStateWord_phase (k : Fin 4) (v : Word) (r : Regs) : (writeStateWord k v r).phase = r.phase := rfl
@[simp] theorem writeStateWord_done (k : Fin 4) (v : Word) (r : Regs) : (writeStateWord k v r).done = r.done := rfl
@[simp] theorem writeStateWord_err (k : Fin 4) (v : Word) (r : Regs) : (writeStateWord k v r).err = r.err := rfl
@[simp] theorem writeStateWord_rkv (k : Fin 4) (v : Word) (r : Regs) : (writeStateWord k v r).rkv = r.rkv := rfl
@[simp] theorem writeStateWord_errCode (k : Fin 4) (v : Word) (r : Regs) : (writeStateWord k v r).errCode = r.errCode := rfl
@[simp] theorem writeStateWord_key (k : Fin 4) (v : Word) (r : Regs) : (writeStateWord k v r).key = r.key := rfl
@[simp] theorem writeStateWord_state (k : Fin 4) (v : Word) (r : Regs) : (writeStateWord k v r).state = setBlockWord r.state k v := rfl
@[simp] theorem writeStateWord_rkin (k : Fin 4) (v : Word) (r : Regs) : (writeStateWord k v r).rkin = r.rkin := rfl
@[simp] theorem writeStateWord_rk (k : Fin 4) (v : Word) (r : Regs) : (writeStateWord k v r).rk = r.rk := rfl

@[simp] theorem writeRkinWord_ctrl (k : Fin 4) (v : Word) (r : Regs) : (writeRkinWord k v r).ctrl = r.ctrl := rfl
@[simp] theorem writeRkinWord_phase (k : Fin 4) (v : Word) (r : Regs) : (writeRkinWord k v r).phase = r.phase := rfl
@[simp] theorem writeRkinWord_done (k : Fin 4) (v : Word) (r : Regs) : (writeRkinWord k v r).done = r.done := rfl
@[simp] theorem writeRkinWord_err (k : Fin 4) (v : Word) (r : Regs) : (writeRkinWord k v r).err = r.err := rfl
@[simp] theorem writeRkinWord_rkv (k : Fin 4) (v : Word) (r : Regs) : (writeRkinWord k v r).rkv = r.rkv := rfl
@[simp] theorem writeRkinWord_errCode (k : Fin 4) (v : Word) (r : Regs) : (writeRkinWord k v r).errCode = r.errCode := rfl
@[simp] theorem writeRkinWord_key (k : Fin 4) (v : Word) (r : Regs) : (writeRkinWord k v r).key = r.key := rfl
@[simp] theorem writeRkinWord_state (k : Fin 4) (v : Word) (r : Regs) : (writeRkinWord k v r).state = r.state := rfl
@[simp] theorem writeRkinWord_rkin (k : Fin 4) (v : Word) (r : Regs) : (writeRkinWord k v r).rkin = setBlockWord r.rkin k v := rfl
@[simp] theorem writeRkinWord_rk (k : Fin 4) (v : Word) (r : Regs) : (writeRkinWord k v r).rk = r.rk := rfl

@[simp] theorem answer_toRegs (a : Answer) (s : State) : (answer a s).toRegs = s.toRegs := rfl
@[simp] theorem answer_rstN (a : Answer) (s : State) : (answer a s).rstN = s.rstN := rfl
@[simp] theorem answer_host (a : Answer) (s : State) : (answer a s).host = s.host := rfl
@[simp] theorem answer_sched (a : Answer) (s : State) : (answer a s).sched = s.sched := rfl
@[simp] theorem answer_log (a : Answer) (s : State) : (answer a s).log = a :: s.log := rfl
@[simp] theorem answer_draws (a : Answer) (s : State) : (answer a s).draws = s.draws := rfl

@[simp] theorem resetRegs_toRegs (s : State) : (resetRegs s).toRegs = Regs.reset := rfl
@[simp] theorem resetRegs_rstN (s : State) : (resetRegs s).rstN = s.rstN := rfl
@[simp] theorem resetRegs_host (s : State) : (resetRegs s).host = s.host := rfl
@[simp] theorem resetRegs_sched (s : State) : (resetRegs s).sched = s.sched := rfl
@[simp] theorem resetRegs_log (s : State) : (resetRegs s).log = s.log := rfl
@[simp] theorem resetRegs_draws (s : State) : (resetRegs s).draws = s.draws := rfl

@[simp] theorem assertReset_toRegs (s : State) : (assertReset s).toRegs = Regs.reset := rfl
@[simp] theorem assertReset_rstN (s : State) : (assertReset s).rstN = false := rfl
@[simp] theorem assertReset_host (s : State) : (assertReset s).host = s.host := rfl
@[simp] theorem assertReset_sched (s : State) : (assertReset s).sched = s.sched := rfl
@[simp] theorem assertReset_log (s : State) : (assertReset s).log = s.log := rfl
@[simp] theorem assertReset_draws (s : State) : (assertReset s).draws = s.draws := rfl

end Sys2Proof.Machine
end

