-- ==== Sys2Proof/Laws/Bus.lean ====
section
/-! SUPPORT. What a read, a write and a bus access can do, said once each. -/

namespace Sys2Proof.Machine

/-- The effect of a write on the core's registers (spec/20_memory.md R55). -/
def writeEffect (g : Reg) (v : Word) (r : Regs) : Regs :=
  match g with
  | .ctrl => writeCtrl v r
  | .cmd =>
    if isBusy r then raiseCmdError .busyViolation r
    else
      match decode v with
      | .ok i => commandEvent i (commandEffect i) r
      | .error _ => raiseCmdError .illegalCmd r
  | .status => writeStatus v r
  | .key k => guardBusy (writeKeyWord k v) r
  | .state k => guardBusy (writeStateWord k v) r
  | .rkin k => guardBusy (writeRkinWord k v) r
  | .rk _ => r

/-- A write while a command is in flight leaves the phase, the data registers and RKV. -/
theorem writeEffect_inFlight (g : Reg) (v : Word) (r : Regs) (c : Instr) (h : r.phase = .busy c) :
    (writeEffect g v r).phase = .busy c ∧ (writeEffect g v r).key = r.key ∧
      (writeEffect g v r).state = r.state ∧ (writeEffect g v r).rkin = r.rkin ∧
      (writeEffect g v r).rk = r.rk ∧ (writeEffect g v r).rkv = r.rkv := by
  have hi : isBusy r = true := by simp [isBusy, h]
  cases g <;> simp [writeEffect, guardBusy, hi, h]

/-- A write always answers a next state, in which only the core's registers may differ. -/
theorem writeReg_eq (g : Reg) (v : Word) (s : State) :
    writeReg g v s = .next { s with toRegs := writeEffect g v s.toRegs } := by
  cases g <;> simp only [writeReg, writeEffect]
  simp only [writeCmd, issueCommand]
  split
  · rfl
  · split <;> simp_all [exec_eq]

/-- A read changes nothing but the count of draws. -/
theorem readReg_frame (g : Reg) (s : State) :
    (readReg g s).2 = s ∨ (readReg g s).2 = { s with draws := s.draws + 1 } := by
  unfold readReg; split <;> simp

/-- The cases of an access that answers a next state: an error response, a read, or a write. -/
theorem busAccess_cases (a : Access) (s t : State) (h : busAccess a s = .next t) :
    (∃ e, busCheck a = .error e ∧ t = answer (.busError e) s) ∨
      (∃ g, a.kind = .read ∧ busCheck a = .ok g ∧
        t = answer (.data (readReg g s).1) (readReg g s).2) ∨
      (∃ g, a.kind = .write ∧ busCheck a = .ok g ∧
        t = answer .ok { s with toRegs := writeEffect g a.wdata s.toRegs }) := by
  unfold busAccess at h
  split at h
  · cases h
  all_goals
    split at h
    · next e he => cases h; exact .inl ⟨e, he, rfl⟩
    · next g hg =>
      split at h
      · next hk => cases h; exact .inr (.inl ⟨g, hk, hg, rfl⟩)
      · next hk =>
        rw [writeReg_eq] at h
        cases h; exact .inr (.inr ⟨g, hk, hg, rfl⟩)

/-- The map holds a register at its own offset only. -/
theorem eq_offsetOf_of_regAt (off : BitVec 12) (g : Reg) (h : regAt off = some g) :
    off = offsetOf g := by
  apply BitVec.eq_of_toNat_eq
  have := off.isLt
  unfold regAt at h
  simp only [] at h
  repeat' split at h
  all_goals first
    | (cases h; done)
    | (injection h with h; subst h; simp [offsetOf]; omega)

/-- An access that the checks let through to register g is a 4-byte access at the offset of g. -/
theorem eq_of_busCheck (a : Access) (g : Reg) (h : busCheck a = .ok g) :
    a.size = .four ∧ a.off = offsetOf g := by
  unfold busCheck at h
  split at h
  · next ha =>
    have hs : a.size = .four := by
      cases hs : a.size <;> simp [isAlignedWord, hs] at ha ⊢
    refine ⟨hs, eq_offsetOf_of_regAt _ _ ?_⟩
    split at h
    · cases h
    · next i hi =>
      split at h
      · cases h; exact hi
      · cases h
    · next r _ hr => cases h; exact hr
  · cases h

/-- The core's registers after an access: unchanged, or those of a write at the offset of a register. -/
theorem busAccess_regs (a : Access) (s t : State) (h : busAccess a s = .next t) :
    t.rstN = s.rstN ∧ t.host = s.host ∧ t.sched = s.sched ∧
      (t.toRegs = s.toRegs ∨
        ∃ g v, a = writeOf (offsetOf g) v ∧ t.toRegs = writeEffect g v s.toRegs) := by
  obtain ⟨e, -, rfl⟩ | ⟨g, -, -, rfl⟩ | ⟨g, hk, hg, rfl⟩ := busAccess_cases a s t h
  · exact ⟨rfl, rfl, rfl, .inl rfl⟩
  · obtain hr | hr := readReg_frame g s <;> rw [hr] <;> exact ⟨rfl, rfl, rfl, .inl rfl⟩
  · obtain ⟨hs, ho⟩ := eq_of_busCheck a g hg
    exact ⟨rfl, rfl, rfl, .inr ⟨g, a.wdata, by cases a; simp_all [writeOf], rfl⟩⟩

/-- An access stops only for the reserved size. -/
theorem busAccess_answers (a : Access) (s : State) (h : a.size ≠ .reserved) :
    ∃ t, busAccess a s = .next t := by
  unfold busAccess
  split
  · contradiction
  all_goals
    split
    · exact ⟨_, rfl⟩
    · split
      · exact ⟨_, rfl⟩
      · rw [writeReg_eq]; exact ⟨_, rfl⟩

/-- The map holds each register at its offset, which is a multiple of 4. -/
theorem regAt_offsetOf (g : Reg) : regAt (offsetOf g) = some g ∧ (offsetOf g).toNat % 4 = 0 := by
  cases g with
  | ctrl => decide
  | cmd => decide
  | status => decide
  | key k => revert k; decide
  | state k => revert k; decide
  | rkin k => revert k; decide
  | rk i => revert i; decide

/-- A 4-byte read of a register passes the checks. -/
theorem busCheck_read (g : Reg) (v : Word) : busCheck ⟨.read, offsetOf g, .four, v⟩ = .ok g := by
  obtain ⟨h1, h2⟩ := regAt_offsetOf g
  rw [busCheck, if_pos (by simp [isAlignedWord, h2])]
  simp only [h1]
  cases g <;> rfl

/-- A 4-byte write of a register other than RK passes the checks. -/
theorem busCheck_write (g : Reg) (v : Word) (h : ∀ i, g ≠ .rk i) :
    busCheck ⟨.write, offsetOf g, .four, v⟩ = .ok g := by
  obtain ⟨h1, h2⟩ := regAt_offsetOf g
  rw [busCheck, if_pos (by simp [isAlignedWord, h2])]
  simp only [h1]

/-- What a 4-byte read of a register answers. -/
theorem busAccess_read (g : Reg) (v : Word) (s : State) :
    busAccess ⟨.read, offsetOf g, .four, v⟩ s =
      .next (answer (.data (readReg g s).1) (readReg g s).2) := by
  simp only [busAccess, busCheck_read]

/-- What a 4-byte write of a register other than RK answers. -/
theorem busAccess_write (g : Reg) (v : Word) (s : State) (h : ∀ i, g ≠ .rk i) :
    busAccess ⟨.write, offsetOf g, .four, v⟩ s =
      .next (answer .ok { s with toRegs := writeEffect g v s.toRegs }) := by
  simp only [busAccess, busCheck_write g v h, writeReg_eq, mapNext]

end Sys2Proof.Machine
end

