-- ==== Sys2Proof/Laws/PerInstr.lean ====
section
/-! SUPPORT. Facts about each command as a word, one lemma per constructor. -/

namespace Sys2Proof.Laws.CommandWord

/-- The command's word has RSV = 0, its OP in OP's field, is well formed, and decodes to the command
(spec/30_encoding.md R81, R83, R84). -/
def Statement (i : Instr) : Prop :=
  rsvField (encode i) = 0 ∧ opField (encode i) = opOf i ∧ isWellFormed i = true ∧
    decode (encode i) = .ok i

theorem subBytes : Statement .subBytes := by unfold Statement; decide
theorem invSubBytes : Statement .invSubBytes := by unfold Statement; decide
theorem shiftRows : Statement .shiftRows := by unfold Statement; decide
theorem invShiftRows : Statement .invShiftRows := by unfold Statement; decide
theorem mixColumns : Statement .mixColumns := by unfold Statement; decide
theorem invMixColumns : Statement .invMixColumns := by unfold Statement; decide
theorem addRoundKey : Statement .addRoundKey := by unfold Statement; decide
theorem expandKey : Statement .expandKey := by unfold Statement; decide
theorem encryptBlock : Statement .encryptBlock := by unfold Statement; decide
theorem decryptBlock : Statement .decryptBlock := by unfold Statement; decide

end Sys2Proof.Laws.CommandWord
end

