-- ==== Sys2Proof/Laws/Step.lean ====
section
/-! SUPPORT. What one step can do to the core's registers, said once. -/

namespace Sys2Proof.Machine

/-- A step is the turn whose it is. -/
theorem step_eq (s : State) : step s = takeTurn (turnOf s) { s with sched := s.sched.tail } := rfl

/-- Whose turn it is when the schedule names it. -/
theorem turnOf_cons (s : State) (u : Turn) (ts : List Turn) (h : s.sched = u :: ts) : turnOf s = u := by
  simp [turnOf, h]

/-- With no turn given the engine goes while a command is in flight. -/
theorem turnOf_nil_busy (s : State) (c : Instr) (h : s.sched = []) (hc : s.phase = .busy c) :
    turnOf s = .engine := by
  simp [turnOf, h, defaultTurn, isBusy, hc]

/-- With no turn given the host goes while no command is in flight. -/
theorem turnOf_nil_idle (s : State) (h : s.sched = []) (hc : s.phase = .idle) : turnOf s = .host := by
  simp [turnOf, h, defaultTurn, isBusy, hc]

/-- A step whose turn the schedule names. -/
theorem step_cons (s : State) (u : Turn) (ts : List Turn) (h : s.sched = u :: ts) :
    step s = takeTurn u { s with sched := ts } := by
  rw [step_eq, turnOf_cons s u ts h, h]; rfl

/-- A step with no turn given and a command in flight. -/
theorem step_nil_busy (s : State) (c : Instr) (h : s.sched = []) (hc : s.phase = .busy c) :
    step s = takeTurn .engine s := by
  rw [step_eq, turnOf_nil_busy s c h hc, h, List.tail_nil, ← h]

/-- A step with no turn given and no command in flight. -/
theorem step_nil_idle (s : State) (h : s.sched = []) (hc : s.phase = .idle) :
    step s = takeTurn .host s := by
  rw [step_eq, turnOf_nil_idle s h hc, h, List.tail_nil, ← h]

/-- The ways a step out of reset can change the core's registers: not at all, by a host write of a register,
or by the completion of the command in flight. -/
def coreMove (s : State) (r' : Regs) : Prop :=
  r' = s.toRegs ∨ (∃ g v, hostWrites s g v ∧ r' = writeEffect g v s.toRegs) ∨
    (turnOf s = .engine ∧ ∃ c, s.phase = .busy c ∧ r' = completeFlags (commandEffect c s.toRegs))

/-- The host's turn is one access or nothing, and changes the core only by a write. -/
theorem hostTurn_core (s t : State) (h : hostTurn s = .next t) :
    t.rstN = s.rstN ∧ (t.toRegs = s.toRegs ∨
      ∃ g v, (∃ rest, s.host = .access (writeOf (offsetOf g) v) :: rest) ∧
        t.toRegs = writeEffect g v s.toRegs) := by
  have read : ∀ (off : BitVec 12) (s u : State), busAccess (readOf off) s = .next u →
      u.rstN = s.rstN ∧ u.toRegs = s.toRegs := by
    intro off s u hu
    obtain ⟨h1, -, -, h2 | ⟨g, v, ha, -⟩⟩ := busAccess_regs _ s u hu
    · exact ⟨h1, h2⟩
    · cases ha
  unfold hostTurn at h
  split at h
  · cases h; exact ⟨rfl, .inl rfl⟩
  · next a rest hs =>
    obtain ⟨h1, -, -, h2 | ⟨g, v, ha, h2⟩⟩ := busAccess_regs a _ t h
    · exact ⟨h1, .inl h2⟩
    · exact ⟨h1, .inr ⟨g, v, ⟨rest, by rw [hs, ha]⟩, h2⟩⟩
  · next rest _ =>
    obtain ⟨u, hu⟩ := busAccess_answers (readOf 0x008#12) { s with host := rest } (by simp [readOf])
    have r := read _ _ u hu
    rw [hu] at h; cases h
    have : (repeatWait u).rstN = u.rstN ∧ (repeatWait u).toRegs = u.toRegs := by
      unfold repeatWait; split <;> exact ⟨rfl, rfl⟩
    exact ⟨this.1.trans r.1, .inl (this.2.trans r.2)⟩
  · next src dst rest _ =>
    obtain ⟨u, hu⟩ := busAccess_answers (readOf src) { s with host := rest } (by simp [readOf])
    have r := read _ _ u hu
    rw [hu] at h; cases h
    exact ⟨r.1, .inl r.2⟩

/-- The engine's turn completes the command in flight, if there is one. -/
theorem engineTurn_core (s t : State) (h : engineTurn s = .next t) :
    t.rstN = s.rstN ∧ (t.toRegs = s.toRegs ∨
      ∃ c, s.phase = .busy c ∧ t.toRegs = completeFlags (commandEffect c s.toRegs)) := by
  unfold engineTurn at h
  split at h
  · cases h; exact ⟨rfl, .inl rfl⟩
  · next c hc =>
    rw [exec_eq, commandEvent_inFlight c _ _ hc] at h
    cases h; exact ⟨rfl, .inr ⟨c, hc, rfl⟩⟩

/-- One step: the core at its reset values with reset asserted before or after, or at the release edge; or
out of reset, a move of the core. -/
theorem step_core (s t : State) (h : step s = .next t) :
    (t.toRegs = Regs.reset ∧ (s.rstN = false ∨ t.rstN = false)) ∨
      (s.rstN = true ∧ t.rstN = true ∧ coreMove s t.toRegs) := by
  rw [step_eq] at h
  cases hu : turnOf s <;> simp only [hu, takeTurn] at h
  case host =>
    by_cases hr : s.rstN = true
    · rw [if_pos (by exact hr)] at h
      obtain ⟨h1, h2 | ⟨g, v, hg, h2⟩⟩ := hostTurn_core _ t h
      · exact .inr ⟨hr, h1.trans hr, .inl h2⟩
      · exact .inr ⟨hr, h1.trans hr, .inr (.inl ⟨g, v, ⟨hu, hg⟩, h2⟩)⟩
    · rw [if_neg (by exact hr)] at h
      cases h; exact .inl ⟨rfl, .inl (by simpa using hr)⟩
  case engine =>
    by_cases hr : s.rstN = true
    · rw [if_pos (by exact hr)] at h
      obtain ⟨h1, h2 | h2⟩ := engineTurn_core _ t h
      · exact .inr ⟨hr, h1.trans hr, .inl h2⟩
      · exact .inr ⟨hr, h1.trans hr, .inr (.inr ⟨hu, h2⟩)⟩
    · rw [if_neg (by exact hr)] at h
      cases h; exact .inl ⟨rfl, .inl (by simpa using hr)⟩
  case resetAssert => cases h; exact .inl ⟨rfl, .inr rfl⟩
  case resetLosingAccess => cases h; exact .inl ⟨rfl, .inr rfl⟩
  case resetRelease =>
    cases h
    unfold releaseReset
    split
    · next hr => exact .inr ⟨hr, hr, .inl rfl⟩
    · next hr => exact .inl ⟨rfl, .inl (by simpa using hr)⟩

end Sys2Proof.Machine
end

