-- ==== Sys2Proof/Laws/Run.lean ====
section
/-! SUPPORT. Several steps in a row, and what a command leaves from its CMD write to its completion. -/

namespace Sys2Proof.Machine

open Sys2Proof.Safety

/-- No step is left to take. -/
theorem run_zero (s : State) : Host.Core.run core 0 s = .next s := rfl

/-- A step that answers a next state is taken, and the other steps follow from there. -/
theorem run_succ (n : Nat) (s t : State) (h : step s = .next t) :
    Host.Core.run core (n + 1) s = Host.Core.run core n t := by
  have h' : core.step s = .next t := h
  simp only [Host.Core.run, h']

/-- A step out of reset is a move of the core. -/
theorem coreMove_of_stepsTo (s t : State) (h : stepsTo s t) : coreMove s t.toRegs := by
  obtain ⟨h1, h2, h3⟩ := h
  obtain ⟨-, h4 | h4⟩ | ⟨-, -, h4⟩ := step_core s t h3
  · simp [h1] at h4
  · simp [h2] at h4
  · exact h4

/-- Steps that wait for the command in flight leave it in flight with its operands. -/
theorem waitingSteps_hold (c : Instr) (s t : State) (hc : s.phase = .busy c)
    (h : Relation.ReflTransGen waitingStep s t) :
    t.phase = .busy c ∧ t.key = s.key ∧ t.state = s.state ∧ t.rkin = s.rkin := by
  induction h with
  | refl => exact ⟨hc, rfl, rfl, rfl⟩
  | tail _ h ih =>
    obtain ⟨hp, hk, hs, hr⟩ := ih
    obtain h3 | ⟨g, v, -, h3⟩ | ⟨-, d, hd, h3⟩ := coreMove_of_stepsTo _ _ h.1
    · rw [h3]; exact ⟨hp, hk, hs, hr⟩
    · have w := writeEffect_inFlight g v _ c hp
      rw [h3]; exact ⟨w.1, w.2.1.trans hk, w.2.2.1.trans hs, w.2.2.2.1.trans hr⟩
    · have := h.2
      rw [h3, hd] at this; cases this

/-- The CMD write that starts a command is its acceptance. -/
theorem accepted_of_commandWrite (c : Instr) (s t : State) (hp : s.phase = .idle)
    (hw : hostWrites s .cmd (encode c)) (h : stepsTo s t) : t.toRegs = acceptFlags c s.toRegs := by
  obtain ⟨hu, rest, hh⟩ := hw
  have h3 := h.2.2
  rw [step_eq, hu] at h3
  simp only [takeTurn] at h3
  rw [if_pos (by exact h.1)] at h3
  simp only [hostTurn, hh] at h3
  have e := (busAccess_write .cmd (encode c) { s with host := rest, sched := s.sched.tail }
    (by simp)).symm.trans h3
  cases e
  have hi : isBusy s.toRegs = false := by simp [isBusy, hp]
  have hd : decode (encode c) = .ok c := by cases c <;> decide
  simp [answer, writeEffect, hi, hd, commandEvent_idle _ _ _ hp]

/-- What a command leaves from its CMD write to its completion: the effect on the operands as they stood at
the CMD write (spec/40_command_execution.md R105). -/
theorem commandRun_result (c : Instr) (s t : State) (h : commandRun c s t) :
    t.phase = .idle ∧ t.state = (commandEffect c s.toRegs).state ∧ t.key = s.key ∧ t.rkin = s.rkin := by
  obtain ⟨hp, hw, a, b, h1, h2, hu, h3⟩ := h
  have ha := accepted_of_commandWrite c s a hp hw h1
  obtain ⟨hb, hk, hs, hr⟩ := waitingSteps_hold c a b (by rw [ha]; rfl) h2
  rw [ha] at hk hs hr
  have hk : b.key = s.key := hk
  have hs : b.state = s.state := hs
  have hr : b.rkin = s.rkin := hr
  have ht : t.toRegs = completeFlags (commandEffect c b.toRegs) := by
    obtain ⟨g1, g2, g3⟩ := h3
    rw [step_eq, hu] at g3
    simp only [takeTurn] at g3
    rw [if_pos (by exact g1)] at g3
    simp only [engineTurn, hb, exec_eq, commandEvent_inFlight c _ _ hb] at g3
    cases g3; rfl
  rw [ht]
  have f := commandEffect_frame c b.toRegs
  refine ⟨rfl, ?_, f.2.2.2.2.2.1.trans hk, f.2.2.2.2.2.2.1.trans hr⟩
  cases c <;> simp [commandEffect, hk, hs, hr]

/-- Steps between two commands leave STATE. -/
theorem betweenSteps_state (s t : State) (h : Relation.ReflTransGen betweenStep s t) :
    t.state = s.state := by
  induction h with
  | refl => rfl
  | tail _ h ih =>
    refine Eq.trans ?_ ih
    obtain ⟨h1, hp, hp', hw⟩ := h
    obtain h3 | ⟨g, v, hg, h3⟩ | ⟨-, d, hd, h3⟩ := coreMove_of_stepsTo _ _ h1
    · rw [h3]
    · rw [h3]
      cases g <;> simp [writeEffect, guardBusy]
      case cmd =>
        split
        · rfl
        · split
          · next hb _ i _ =>
            obtain hp | hp := hp
            · simp [commandEvent_idle _ _ _ hp]
            · simp [isBusy, hp] at hb
          · rfl
      case key => split <;> rfl
      case rkin => split <;> rfl
      case state k => exact absurd hg (hw k v)
    · rw [h3]
      obtain hp | hp := hp
      · rw [hp] at hd; cases hd
      · rw [hp] at hd; cases hd; rfl

end Sys2Proof.Machine
end

