-- ==== Sys2Proof/Tests/Slice0.lean ====
section
/-! SUPPORT. Tests of one step or one function against the spec's own vectors (spec/95_test_vectors.md), the
smoke test of the well-formedness checks, and for each obligation with hypotheses a state that meets them. -/

namespace Sys2Proof.Tests

open Sys2Proof Sys2Proof.Machine Sys2Proof.Safety

/-- The reset state with another phase. -/
def inPhase (p : Phase) : State := { State.reset with phase := p }

/-- A state with command i in flight on the given KEY, STATE and RKIN. -/
def inFlight (i : Instr) (key state rkin : BitVec 128) : State :=
  { inPhase (.busy i) with
    key := blockOfHex key, state := blockOfHex state, rkin := blockOfHex rkin }

/-- The next state of an outcome. -/
def nextOf (o : Host.Outcome State Fault Refusal) : Option State :=
  match o with
  | .next s => some s
  | .fault _ => none
  | .refused _ => none

/-- STATE after the completion of command i. -/
def stateAfter (i : Instr) (key state rkin : BitVec 128) : Option (BitVec 128) :=
  (nextOf (exec i (inFlight i key state rkin))).map fun t => blockBits t.state

/-- The STATUS word and `irq` after an access. -/
def statusAfter (a : Access) (s : State) : Option Word :=
  (nextOf (busAccess a s)).map fun t => statusWord t.toRegs

/-- The answer to an access. -/
def answerOf (a : Access) (s : State) : Option Answer :=
  (nextOf (busAccess a s)).bind fun t => t.log.head?

/-! ### Decoding, by words written out from the encoding (spec/30_encoding.md R81, R83) -/

theorem test_decode_subBytes :
    decode 0b00000000000000000000000000000001#32 = .ok .subBytes := by decide
theorem test_decode_invSubBytes :
    decode 0b00000000000000000000000000000010#32 = .ok .invSubBytes := by decide
theorem test_decode_shiftRows :
    decode 0b00000000000000000000000000000011#32 = .ok .shiftRows := by decide
theorem test_decode_invShiftRows :
    decode 0b00000000000000000000000000000100#32 = .ok .invShiftRows := by decide
theorem test_decode_mixColumns :
    decode 0b00000000000000000000000000000101#32 = .ok .mixColumns := by decide
theorem test_decode_invMixColumns :
    decode 0b00000000000000000000000000000110#32 = .ok .invMixColumns := by decide
theorem test_decode_addRoundKey :
    decode 0b00000000000000000000000000000111#32 = .ok .addRoundKey := by decide
theorem test_decode_expandKey :
    decode 0b00000000000000000000000000001000#32 = .ok .expandKey := by decide
theorem test_decode_encryptBlock :
    decode 0b00000000000000000000000000001001#32 = .ok .encryptBlock := by decide
theorem test_decode_decryptBlock :
    decode 0b00000000000000000000000000001010#32 = .ok .decryptBlock := by decide

/-- V60: the illegal words. -/
theorem test_decode_illegal :
    ∀ v ∈ [0x00000000#32, 0x0000000B#32, 0x0000000C#32, 0x0000000D#32, 0x0000000E#32, 0x0000000F#32,
      0x00000010#32, 0x00000011#32, 0x00000019#32, 0x0000001F#32, 0x80000009#32, 0xFFFFFFFF#32],
      ∃ e, decode v = .error e := by
  intro v h
  fin_cases h
  · exact ⟨.reservedOp, by decide⟩
  · exact ⟨.reservedOp, by decide⟩
  · exact ⟨.reservedOp, by decide⟩
  · exact ⟨.reservedOp, by decide⟩
  · exact ⟨.reservedOp, by decide⟩
  · exact ⟨.reservedOp, by decide⟩
  · exact ⟨.reservedBitsSet, by decide⟩
  · exact ⟨.reservedBitsSet, by decide⟩
  · exact ⟨.reservedBitsSet, by decide⟩
  · exact ⟨.reservedBitsSet, by decide⟩
  · exact ⟨.reservedBitsSet, by decide⟩
  · exact ⟨.reservedBitsSet, by decide⟩

/-! ### Ill-formed words and accesses are refused -/

theorem test_wellFormed_commands :
    ∀ i ∈ [Instr.subBytes, .invSubBytes, .shiftRows, .invShiftRows, .mixColumns, .invMixColumns,
      .addRoundKey, .expandKey, .encryptBlock, .decryptBlock], isWellFormed i = true := by decide

/-- Bits 31:4 not 0 (R86), OP too small and OP too large (R85). -/
theorem test_illFormed_words :
    isLegalWord 0x00000011#32 = false ∧ isLegalWord 0x80000001#32 = false ∧
      isLegalWord 0x00000000#32 = false ∧ isLegalWord 0x0000000B#32 = false ∧
      isLegalWord 0x0000000F#32 = false := by decide

/-- V54: one access for each check of R56 to R59, and the edges of the map. -/
theorem test_illFormed_accesses :
    isAdmitted ⟨.read, 0x008#12, .one, 0⟩ = false ∧ isAdmitted ⟨.read, 0x008#12, .two, 0⟩ = false ∧
      isAdmitted ⟨.read, 0x002#12, .four, 0⟩ = false ∧
      isAdmitted ⟨.write, 0x011#12, .four, 0⟩ = false ∧
      isAdmitted ⟨.read, 0x00C#12, .four, 0⟩ = false ∧
      isAdmitted ⟨.read, 0x040#12, .four, 0⟩ = false ∧
      isAdmitted ⟨.read, 0x0FC#12, .four, 0⟩ = false ∧
      isAdmitted ⟨.read, 0x1B0#12, .four, 0⟩ = false ∧
      isAdmitted ⟨.write, 0xFFC#12, .four, 0⟩ = false ∧
      isAdmitted ⟨.write, 0x100#12, .four, 0⟩ = false ∧
      isAdmitted ⟨.write, 0x1AC#12, .four, 0⟩ = false ∧
      isAdmitted ⟨.read, 0x1AC#12, .four, 0⟩ = true ∧
      isAdmitted ⟨.read, 0x03C#12, .four, 0⟩ = true ∧
      isAdmitted ⟨.write, 0x03C#12, .four, 1⟩ = true ∧
      isAdmitted ⟨.read, 0x008#12, .reserved, 0⟩ = false := by decide

/-! ### Field arithmetic and tables -/

/-- V11 and V12. -/
theorem test_xtime :
    xtime 0x00#8 = 0x00#8 ∧ xtime 0x01#8 = 0x02#8 ∧ xtime 0x80#8 = 0x1B#8 ∧ xtime 0xFF#8 = 0xE5#8 := by
  decide

/-- V13. -/
theorem test_inverse :
    ginverse 0x02#8 = 0x8D#8 ∧ ginverse 0x03#8 = 0xF6#8 ∧ ginverse 0x53#8 = 0xCA#8 ∧
      ginverse 0x80#8 = 0x83#8 ∧ ginverse 0xFF#8 = 0x1C#8 := by decide +kernel

/-- V14. -/
theorem test_sbox :
    sbox 0x00#8 = 0x63#8 ∧ sbox 0x01#8 = 0x7C#8 ∧ sbox 0x53#8 = 0xED#8 ∧ sbox 0x80#8 = 0xCD#8 ∧
      sbox 0xFF#8 = 0x16#8 ∧ invSbox 0x00#8 = 0x52#8 ∧ invSbox 0x7C#8 = 0x01#8 ∧
      invSbox 0xED#8 = 0x53#8 ∧ invSbox 0x16#8 = 0xFF#8 := by decide +kernel

/-- V16. -/
theorem test_wordFunctions :
    rotWord 0x09CF4F3C#32 = 0xCF4F3C09#32 ∧ subWord 0xCF4F3C09#32 = 0x8A84EB01#32 ∧
      subWord 0x00000000#32 = 0x63636363#32 := by decide +kernel

/-! ### The ten commands at completion -/

/-- V40. -/
theorem test_subBytes :
    stateAfter .subBytes 0 0x637c777bf26b6fc53001672bfed7ab76#128 0 =
      some 0xfb10f521897fa8a6047c85f1bb0e6238#128 := by decide +kernel

/-- V40. -/
theorem test_invSubBytes :
    stateAfter .invSubBytes 0 0x000102030405060708090a0b0c0d0e0f#128 0 =
      some 0x52096ad53036a538bf40a39e81f3d7fb#128 := by decide +kernel

/-- V41. -/
theorem test_shiftRows :
    stateAfter .shiftRows 0 0x000102030405060708090a0b0c0d0e0f#128 0 =
      some 0x00050a0f04090e03080d02070c01060b#128 := by decide +kernel

/-- V5. -/
theorem test_shiftRows_rows :
    stateAfter .shiftRows 0 0x0004080c0105090d02060a0e03070b0f#128 0 =
      some 0x00050a0f01060b0c0207080d0304090e#128 := by decide +kernel

/-- V41. -/
theorem test_invShiftRows :
    stateAfter .invShiftRows 0 0x000102030405060708090a0b0c0d0e0f#128 0 =
      some 0x000d0a0704010e0b0805020f0c090603#128 := by decide +kernel

/-- V43. -/
theorem test_mixColumns :
    stateAfter .mixColumns 0 0xd4bf5d30e0b452aeb84111f11e2798e5#128 0 =
      some 0x046681e5e0cb199a48f8d37a2806264c#128 := by decide +kernel

/-- V43. -/
theorem test_invMixColumns :
    stateAfter .invMixColumns 0 0xd4bf5d30e0b452aeb84111f11e2798e5#128 0 =
      some 0x265ca3df2994d0c512c6894410351e7f#128 := by decide +kernel

/-- V44. -/
theorem test_addRoundKey :
    stateAfter .addRoundKey 0xffffffffffffffffffffffffffffffff#128
        0x3243f6a8885a308d313198a2e0370734#128 0x2b7e151628aed2a6abf7158809cf4f3c#128 =
      some 0x193de3bea0f4e22b9ac68d2ae9f84808#128 := by decide +kernel

/-- V22 and V24: the schedule of a key, its second and its last round key; STATE is not written. -/
theorem test_expandKey :
    (nextOf (exec .expandKey (inFlight .expandKey 0x2b7e151628aed2a6abf7158809cf4f3c#128
        0x00112233445566778899aabbccddeeff#128 0))).map (fun t =>
          (blockBits (roundKey t.rk 0), blockBits (roundKey t.rk 1), blockBits (roundKey t.rk 10),
            blockBits t.state, statusWord t.toRegs)) =
      some (0x2b7e151628aed2a6abf7158809cf4f3c#128, 0xa0fafe1788542cb123a339392a6c7605#128,
        0xd014f9a8c9ee2589e13f0cc8b6630ca6#128, 0x00112233445566778899aabbccddeeff#128,
        0x0000000a#32) := by
  decide +kernel

/-- R161's corner case: round key 1 of the all-0xFF key. -/
theorem test_expandKey_ones :
    (nextOf (exec .expandKey (inFlight .expandKey 0xffffffffffffffffffffffffffffffff#128 0 0))).map
        (fun t => blockBits (roundKey t.rk 1)) =
      some 0xe8e9e9e917161616e8e9e9e917161616#128 := by decide +kernel

/-- V30. -/
theorem test_encryptBlock :
    stateAfter .encryptBlock 0x2b7e151628aed2a6abf7158809cf4f3c#128
        0x3243f6a8885a308d313198a2e0370734#128 0 =
      some 0x3925841d02dc09fbdc118597196a0b32#128 := by decide +kernel

/-- V30. -/
theorem test_decryptBlock :
    stateAfter .decryptBlock 0x2b7e151628aed2a6abf7158809cf4f3c#128
        0x3925841d02dc09fbdc118597196a0b32#128 0 =
      some 0x3243f6a8885a308d313198a2e0370734#128 := by decide +kernel

/-! ### Status, errors, interrupt, bus -/

/-- The registers of V51: DONE, ERR, RKV and ERRCODE 2. -/
def statusTwoE : State := { State.reset with done := true, err := true, rkv := true, errCode := 2 }

/-- V51: the W1C write of STATUS. -/
theorem test_statusWrite :
    [0x00000000#32, 0x00000001#32, 0x00000002#32, 0x00000004#32, 0x00000006#32, 0x00000008#32,
        0x000000f0#32, 0xffffffff#32].map (fun v => statusAfter (writeOf 0x008#12 v) statusTwoE) =
      [some 0x0000002e#32, some 0x0000002e#32, some 0x0000002c#32, some 0x0000000a#32,
        some 0x00000008#32, some 0x0000002e#32, some 0x0000002e#32, some 0x00000008#32] := by
  decide +kernel

/-- V50: acceptance from reset; acceptance with RKV and DONE held; with an error pending; an illegal word; a
word written while a command is in flight. -/
theorem test_statusOfCommandWrites :
    statusAfter (writeOf 0x004#12 0x00000009#32) State.reset = some 0x00000001#32 ∧
      statusAfter (writeOf 0x004#12 0x00000001#32)
        { State.reset with done := true, rkv := true } = some 0x00000009#32 ∧
      statusAfter (writeOf 0x004#12 0x00000009#32)
        { State.reset with err := true, errCode := 1 } = some 0x00000015#32 ∧
      statusAfter (writeOf 0x004#12 0x00000000#32) State.reset = some 0x00000014#32 ∧
      statusAfter (writeOf 0x004#12 0x0000001F#32) (inPhase (.busy .encryptBlock)) =
        some 0x00000025#32 := by decide +kernel

/-- V50 and V56: a KEY write clears RKV; a discarded one does not; a second error keeps the first code. -/
theorem test_statusOfOperandWrites :
    statusAfter (writeOf 0x010#12 0x00000000#32) { State.reset with done := true, rkv := true } =
        some 0x00000002#32 ∧
      statusAfter (writeOf 0x010#12 0x00000000#32)
        { inPhase (.busy .subBytes) with rkv := true } = some 0x0000002d#32 ∧
      statusAfter (writeOf 0x020#12 0x00000000#32)
        { inPhase (.busy .encryptBlock) with err := true, errCode := 1 } = some 0x00000015#32 := by
  decide +kernel

/-- V52: the rows of `irq` with one cause and one enable. -/
theorem test_irq :
    irq { Regs.reset with done := true, ctrl := 1 } = true ∧
      irq { Regs.reset with done := true, ctrl := 2 } = false ∧
      irq { Regs.reset with err := true, ctrl := 1 } = false ∧
      irq { Regs.reset with err := true, ctrl := 2 } = true := by decide

/-- V53 and V54: CTRL keeps two bits; the causes of bus errors. -/
theorem test_answers :
    answerOf (readOf 0x000#12) { State.reset with toRegs := writeCtrl 0xFFFFFFFF#32 Regs.reset } =
        some (.data 0x00000003#32) ∧
      answerOf ⟨.read, 0x00C#12, .two, 0⟩ State.reset = some (.busError .misalignedOrNarrow) ∧
      answerOf (readOf 0x00C#12) State.reset = some (.busError .unmapped) ∧
      answerOf (writeOf 0x1AC#12 0#32) State.reset = some (.busError .readOnly) ∧
      answerOf (readOf 0x1AC#12) State.reset = some (.data 0#32) ∧
      answerOf (writeOf 0x03C#12 1#32) State.reset = some .ok := by decide +kernel

/-- V57: reset with ENCRYPT_BLOCK in flight. -/
theorem test_reset :
    nextOf (step { inFlight .encryptBlock 1 1 1 with sched := [.resetAssert] }) =
      some { State.reset with rstN := false } := by decide +kernel

/-- Each row of the opcode table, placed as the first instruction after reset, is accepted. -/
theorem test_placedWordsRun :
    [1, 2, 3, 4, 5, 6, 7, 8, 9, 10].map (fun w =>
        (nextOf (step (State.reset.withFetchWord 32 w))).map fun t => t.phase) =
      [some (.busy .subBytes), some (.busy .invSubBytes), some (.busy .shiftRows),
        some (.busy .invShiftRows), some (.busy .mixColumns), some (.busy .invMixColumns),
        some (.busy .addRoundKey), some (.busy .expandKey), some (.busy .encryptBlock),
        some (.busy .decryptBlock)] := by decide +kernel

/-! ### States that meet the hypotheses of the obligations -/

/-- ReservedWordsAreIllegal: the ends of each clause. -/
theorem witness_reservedWords :
    ((0x00000010#32).toNat / 16 ≠ 0 ∧ (0xFFFFFFFF#32).toNat / 16 ≠ 0) ∧
      ((0x00000000#32).toNat / 16 = 0 ∧ (0x00000000#32).toNat = 0) ∧
      ((0x0000000B#32).toNat / 16 = 0 ∧ 11 ≤ (0x0000000B#32).toNat) ∧
      ((0x0000000F#32).toNat / 16 = 0 ∧ 11 ≤ (0x0000000F#32).toNat) ∧
      (1 ≤ (0x00000001#32).toNat ∧ (0x00000001#32).toNat ≤ 10) ∧
      (1 ≤ (0x0000000A#32).toNat ∧ (0x0000000A#32).toNat ≤ 10) := by decide

/-- The host's first access writes a command word, and its turn comes first. -/
def aboutToIssue : State :=
  { State.reset with host := [.access (writeOf 0x004#12 0x00000009#32)], sched := [.host] }

/-- HostWriteOfCommandRunsIt: the clause of an empty schedule, and that of a program that has ended. -/
theorem witness_hostTurn :
    ({ aboutToIssue with sched := [] } : State).sched = [] ∧
      ({ aboutToIssue with sched := [] } : State).phase = .idle ∧
      ({ aboutToIssue with host := [] } : State).rstN = true ∧
      ({ aboutToIssue with host := [] } : State).host = [] ∧
      ({ aboutToIssue with host := [] } : State).sched = .host :: [] := by decide +kernel

/-- HostWriteOfCommandRunsIt: the clause of a command. -/
theorem witness_hostWrite :
    aboutToIssue.rstN = true ∧ aboutToIssue.phase = .idle ∧ aboutToIssue.sched = .host :: [] ∧
      aboutToIssue.host = .access (writeOf 0x004#12 0x00000009#32) :: [] ∧
      decode 0x00000009#32 = .ok .encryptBlock := by decide +kernel

/-- EngineTurnCompletesCommand, with the engine's turn next and with no turn given. -/
theorem witness_engineTurn :
    (inPhase (.busy .shiftRows)).rstN = true ∧ (inPhase (.busy .shiftRows)).phase = .busy .shiftRows ∧
      ({ inPhase (.busy .shiftRows) with sched := [.engine] } : State).sched = .engine :: [] ∧
      (inPhase (.busy .shiftRows)).sched = [] := by decide +kernel

/-- PlacedWordIsRunByTheNextStep, at the first and the last row of the table. -/
theorem witness_placedWord :
    decodeTableWord 32 0x00000001 = some .subBytes ∧
      decodeTableWord 32 0x0000000A = some .decryptBlock := by decide

/-- CommandIsAcceptedWhenIdle, IllegalWordIsRecordedAndStartsNothing (each reason), OperandWritesWhenIdle and
the command-level clauses of TransformsAreInvertedByTheirInverses, DecryptionInvertsEncryption and
BlockCommandsEqualTheirCommandSequences. -/
theorem witness_idle :
    State.reset.phase = .idle ∧ decode 0x0000000B#32 = .error .reservedOp ∧
      decode 0x00000010#32 = .error .reservedBitsSet ∧
      Instr.decryptBlock ∈ [Instr.expandKey, .encryptBlock, .decryptBlock] ∧
      Instr.addRoundKey ∈ [Instr.subBytes, .invSubBytes, .shiftRows, .invShiftRows, .mixColumns,
        .invMixColumns, .addRoundKey] := by decide +kernel

/-- The ten results, CommandWriteWhileBusyIsDiscarded, OperandWritesWhileBusyAreDiscarded,
ExpansionStartsWithTheKey and ReferenceFsmMeetsTheContract: each command can be in flight. -/
theorem witness_inFlight : ∀ i : Instr, (inPhase (.busy i)).phase = .busy i := fun _ => rfl

/-- CommandIsTurnedAwayWhileAnotherRuns. -/
theorem witness_otherInFlight :
    (inPhase (.busy .expandKey)).phase = .busy .expandKey ∧ Instr.expandKey ≠ Instr.subBytes := by
  decide +kernel

/-- CommandsWriteOnlyTheirWriteSet: exec answers a next state when no command, the command itself or another
one is in flight; and the premises of its clauses are met, that of the last one by a STATE word that changes. -/
theorem witness_frame :
    (nextOf (exec .subBytes State.reset)).isSome = true ∧
      (nextOf (exec .subBytes (inPhase (.busy .subBytes)))).isSome = true ∧
      (nextOf (exec .subBytes (inPhase (.busy .expandKey)))).isSome = true ∧
      (inPhase (.busy .expandKey)).phase ≠ .busy .subBytes ∧
      (nextOf (exec .subBytes (inPhase (.busy .subBytes)))).map (fun t =>
        heldValue (.state 0) t.toRegs ≠ heldValue (.state 0) (inPhase (.busy .subBytes)).toRegs) =
          some True := by
  refine ⟨by decide +kernel, by decide +kernel, by decide +kernel, by decide, ?_⟩
  rw [show exec .subBytes (inPhase (.busy .subBytes)) = .next
    { inPhase .idle with done := true, state := subBytes Block.zero } from rfl]
  simp only [nextOf, Option.map_some, Option.some.injEq, eq_iff_iff, iff_true]
  decide +kernel

/-- BusErrorsInTheirOrder and ReservedAccessSizeStops: an access for each clause, at the ends of each range. -/
theorem witness_busErrors :
    (AccessSize.one ≠ .reserved ∧ AccessSize.one ≠ .four) ∧
      (AccessSize.four ≠ .reserved ∧ (0xFFD#12).toNat % 4 ≠ 0) ∧
      ((0x00C#12).toNat % 4 = 0 ∧ (0x00C#12).toNat = 0x00C) ∧
      ((0x040#12).toNat % 4 = 0 ∧ 0x040 ≤ (0x040#12).toNat ∧ (0x040#12).toNat ≤ 0x0FC) ∧
      ((0x0FC#12).toNat % 4 = 0 ∧ 0x040 ≤ (0x0FC#12).toNat ∧ (0x0FC#12).toNat ≤ 0x0FC) ∧
      ((0x1B0#12).toNat % 4 = 0 ∧ 0x1B0 ≤ (0x1B0#12).toNat) ∧
      ((0xFFC#12).toNat % 4 = 0 ∧ 0x1B0 ≤ (0xFFC#12).toNat) ∧
      ((0x100#12).toNat % 4 = 0 ∧ 0x100 ≤ (0x100#12).toNat ∧ (0x100#12).toNat ≤ 0x1AC) ∧
      ((0x1AC#12).toNat % 4 = 0 ∧ 0x100 ≤ (0x1AC#12).toNat ∧ (0x1AC#12).toNat ≤ 0x1AC) ∧
      (Access.mk .read 0x008#12 .reserved 0).size = .reserved := by decide

/-- ReadsReturnTheRegister: STATE while EXPAND_KEY is in flight, RK while SUB_BYTES is. -/
theorem witness_reads :
    (inPhase (.busy .expandKey)).phase = .busy .expandKey ∧
      ∀ c ∈ [Instr.expandKey, .encryptBlock, .decryptBlock],
        (inPhase (.busy .subBytes)).phase ≠ .busy c := by decide +kernel

/-- ReadsOfTheWriteSetAreFree: both clauses at once for ENCRYPT_BLOCK, one each for SUB_BYTES and
EXPAND_KEY. -/
theorem witness_freeReads :
    (inPhase (.busy .encryptBlock)).phase = .busy .encryptBlock ∧
      Instr.encryptBlock ≠ .expandKey ∧ Instr.subBytes ≠ .expandKey ∧
      Instr.encryptBlock ∈ [Instr.expandKey, .encryptBlock, .decryptBlock] ∧
      Instr.expandKey ∈ [Instr.expandKey, .encryptBlock, .decryptBlock] := by decide +kernel

/-- ReadsChangeNoCoreState: an admitted read and one answered with an error. -/
theorem witness_readsAnswer :
    (readOf 0x020#12).kind = .read ∧
      busAccess (readOf 0x020#12) State.reset = .next { State.reset with log := [.data 0] } ∧
      busAccess (readOf 0x00C#12) State.reset =
        .next { State.reset with log := [.busError .unmapped] } := ⟨rfl, rfl, rfl⟩

/-- FirstErrorCodeIsKept: with and without an error held. -/
theorem witness_errorHeld : Regs.reset.err = false ∧ statusTwoE.toRegs.err = true := by decide

/-- A WAIT line next, in a phase and with a schedule. -/
def aboutToWait (p : Phase) (ts : List Turn) : State := { inPhase p with host := [.wait], sched := ts }

/-- WaitPollsUntilNotBusy, with no command and with one in flight, and with an empty schedule. -/
theorem witness_wait :
    (∀ p ∈ [Phase.idle, .busy .encryptBlock], (aboutToWait p [.host]).rstN = true ∧
      (aboutToWait p [.host]).host = .wait :: [] ∧ (aboutToWait p [.host]).sched = .host :: []) ∧
      (aboutToWait .idle []).rstN = true ∧ (aboutToWait .idle []).host = .wait :: [] ∧
      (aboutToWait .idle []).sched = [] ∧ (aboutToWait .idle []).phase = .idle := by decide +kernel

/-- The lines of MOVRK r in a schedule. -/
def aboutToMove (r : Nat) (ts : List Turn) : State :=
  { State.reset with host := pseudoMovRk r, sched := ts }

/-- MoveRoundKeyCopiesIt, at the first and the last round key, with eight host turns and with none. -/
theorem witness_moveRoundKey :
    ∀ r ∈ [0, 10], ∀ ts ∈ [List.replicate 8 Turn.host ++ [.engine], []],
      r ≤ 10 ∧ (aboutToMove r ts).rstN = true ∧ (aboutToMove r ts).phase = .idle ∧
        ((aboutToMove r ts).sched = List.replicate 8 .host ++ [.engine] ∨
          (aboutToMove r ts).sched = [] ∧ ([] : List Turn) = []) ∧
        (aboutToMove r ts).host = pseudoMovRk r ++ [] := by decide +kernel

/-- ResetAbandonsTheCommand: a state for each turn, and a step that ends a command in flight with DONE 0. -/
theorem witness_resetTurns :
    ({ inPhase (.busy .encryptBlock) with sched := [.resetAssert] } : State).sched =
        .resetAssert :: [] ∧
      ({ inPhase (.busy .encryptBlock) with sched := [.resetLosingAccess] } : State).sched =
        .resetLosingAccess :: [] ∧
      ({ State.reset with rstN := false, sched := [.resetRelease] } : State).sched =
        .resetRelease :: [] ∧
      ({ State.reset with rstN := false, sched := [.resetRelease] } : State).rstN = false ∧
      (nextOf (step { inPhase (.busy .encryptBlock) with sched := [.resetAssert] })).map
        (fun t => (t.phase, t.done)) = some (.idle, false) := by decide +kernel

/-- NoServiceWhileInReset: each clause. -/
theorem witness_noService :
    ({ aboutToIssue with rstN := false } : State).rstN = false ∧
      ({ aboutToIssue with rstN := false } : State).sched = .host :: [] ∧
      ({ aboutToIssue with rstN := false, sched := [.engine] } : State).sched = .engine :: [] ∧
      ({ aboutToIssue with sched := [.resetLosingAccess] } : State).rstN = true ∧
      ({ aboutToIssue with sched := [.resetLosingAccess] } : State).host =
        .access (writeOf 0x004#12 0x00000009#32) :: [] ∧
      ({ aboutToIssue with sched := [.resetLosingAccess] } : State).sched =
        .resetLosingAccess :: [] ∧
      ({ aboutToIssue with sched := [.resetLosingAccess], host := [] } : State).host = [] ∧
      ({ aboutToIssue with sched := [.resetLosingAccess], rstN := false } : State).rstN = false ∧
      ({ aboutToIssue with sched := [], rstN := false } : State).sched = [] := by decide +kernel

/-- StepKeepsPhaseInvariants and StepKeepsErrorCodeDefined: a state with an error held and a command in flight,
and a step from it. -/
theorem witness_invariants :
    phaseInv { Regs.reset with phase := .busy .subBytes, err := true, errCode := 2 } ∧
      errorCodeInv { Regs.reset with phase := .busy .subBytes, err := true, errCode := 2 } ∧
      (nextOf (step { inPhase (.busy .subBytes) with err := true, errCode := 2 })).isSome = true := by
  refine ⟨by unfold phaseInv; decide, by unfold errorCodeInv; decide, by decide +kernel⟩

/-- StepKeepsRoundKeysValid: a state with valid round keys, and a step from it that clears RKV. -/
theorem witness_rkvInv :
    rkvInv { Regs.reset with rk := expandKey Block.zero, rkv := true } ∧
      (nextOf (step { State.reset with
        rk := expandKey Block.zero, rkv := true,
        host := [.access (writeOf 0x010#12 0x00000001#32)] })).map (fun t => t.rkv) = some false :=
  ⟨fun _ => rfl, by decide +kernel⟩

/-- StepHoldsTheCoreInReset: a state in reset, and a step from it. -/
theorem witness_resetInv :
    resetInv { State.reset with rstN := false, host := [.wait], sched := [.host] } ∧
      (nextOf (step { State.reset with rstN := false, host := [.wait], sched := [.host] })).isSome =
        true := ⟨fun _ => rfl, by decide +kernel⟩

/-- OperandsHeldWhileBusy and OnlyTheirEventsWriteRegisters: a host write while a command is in flight, and a
completion that changes STATE and RK and sets DONE and RKV. -/
theorem witness_stepsWhileBusy :
    (nextOf (step { inPhase (.busy .encryptBlock) with
        host := [.access (writeOf 0x010#12 0x11111111#32)], sched := [.host] })).map
      (fun t => (t.rstN, t.phase, t.key)) = some (true, .busy .encryptBlock, Block.zero) ∧
    (nextOf (step (inPhase (.busy .encryptBlock)))).map (fun t =>
      (t.rstN, t.phase, t.done, t.rkv, decide (t.state ≠ Block.zero),
        decide (t.rk ≠ Vector.replicate 44 0))) =
      some (true, .idle, true, true, true, true) := by decide +kernel

/-- OnlyTheirEventsWriteRegisters: a KEY write, an RKIN write and a STATE write that take effect. -/
theorem witness_stepsWhenIdle :
    [0x010#12, 0x020#12, 0x030#12].map (fun off =>
        (nextOf (step { State.reset with
          host := [.access (writeOf off 0x11111111#32)], sched := [.host] })).map (fun t =>
            (decide (t.key ≠ Block.zero), decide (t.state ≠ Block.zero),
              decide (t.rkin ≠ Block.zero)))) =
      [some (true, false, false), some (false, true, false), some (false, false, true)] := by
  decide +kernel

/-- OnlyTheirEventsWriteRegisters: the premises of its other clauses, each met by one step: a CTRL write, an
acceptance that clears DONE and RKV, a STATUS write that clears DONE, ERR and ERRCODE, an illegal word, and a
write that is discarded. -/
theorem witness_stepsOnStatus :
    [(State.reset, writeOf 0x000#12 0x00000003#32),
      ({ State.reset with done := true, rkv := true }, writeOf 0x004#12 0x00000008#32),
      (statusTwoE, writeOf 0x008#12 0x00000006#32),
      (State.reset, writeOf 0x004#12 0x00000000#32),
      (inPhase (.busy .subBytes), writeOf 0x020#12 0x00000000#32)].map (fun p =>
        (nextOf (step { p.1 with host := [.access p.2], sched := [.host] })).map fun t =>
          (t.rstN, t.ctrl, statusWord t.toRegs)) =
      [some (true, 3, 0x00000000#32), some (true, 0, 0x00000001#32), some (true, 0, 0x00000008#32),
        some (true, 0, 0x00000014#32), some (true, 0, 0x00000025#32)] := by decide +kernel

/-- Command c1 and then c2, with a discarded KEY write during the first and a STATE read between them. -/
def twoCommands (c1 c2 : Instr) : State :=
  { inFlight c1 1 2 3 with
    phase := .idle
    host := [.access (writeOf 0x004#12 (encode c1)), .access (writeOf 0x010#12 0x11111111#32),
      .access (readOf 0x020#12), .access (writeOf 0x004#12 (encode c2))]
    sched := [.host, .host, .engine, .host, .host, .engine] }

/-- The state n steps after `twoCommands`. -/
def twoCommandsAt (c1 c2 : Instr) (n : Nat) : State :=
  match Host.Core.run core n (twoCommands c1 c2) with
  | .next t => t
  | .fault _ => State.reset
  | .refused _ => State.reset

/-- The pairs of TransformsAreInvertedByTheirInverses and DecryptionInvertsEncryption. -/
def commandPairs : List (Instr × Instr) :=
  [(.subBytes, .invSubBytes), (.invSubBytes, .subBytes), (.shiftRows, .invShiftRows),
    (.invShiftRows, .shiftRows), (.mixColumns, .invMixColumns), (.invMixColumns, .mixColumns),
    (.addRoundKey, .addRoundKey), (.encryptBlock, .decryptBlock), (.decryptBlock, .encryptBlock)]

/-- What the premises of the two obligations ask of the six steps, in a form that evaluates. -/
theorem twoCommands_steps :
    ∀ p ∈ commandPairs,
      (∀ n ∈ List.range 6, nextOf (step (twoCommandsAt p.1 p.2 n)) = some (twoCommandsAt p.1 p.2 (n + 1)) ∧
        (twoCommandsAt p.1 p.2 n).rstN = true ∧ (twoCommandsAt p.1 p.2 (n + 1)).rstN = true) ∧
      [0, 1, 2, 3, 4, 5, 6].map (fun n => (twoCommandsAt p.1 p.2 n).phase) =
        [.idle, .busy p.1, .busy p.1, .idle, .idle, .busy p.2, .idle] ∧
      [0, 2, 4, 5].map (fun n => turnOf (twoCommandsAt p.1 p.2 n)) = [.host, .engine, .host, .engine] ∧
      (twoCommandsAt p.1 p.2 0).host.head? = some (.access (writeOf (offsetOf .cmd) (encode p.1))) ∧
      (twoCommandsAt p.1 p.2 3).host.head? = some (.access (readOf 0x020#12)) ∧
      (twoCommandsAt p.1 p.2 4).host.head? = some (.access (writeOf (offsetOf .cmd) (encode p.2))) ∧
      (twoCommandsAt p.1 p.2 4).key = (twoCommandsAt p.1 p.2 3).key ∧
      (twoCommandsAt p.1 p.2 4).rkin = (twoCommandsAt p.1 p.2 3).rkin := by decide +kernel

/-- The next state that an outcome is. -/
theorem eq_next_of_nextOf (o : Host.Outcome State Fault Refusal) (t : State) (h : nextOf o = some t) :
    o = .next t := by
  cases o <;> simp_all [nextOf]

/-- A host whose program begins so. -/
theorem host_of_head (l : List HostOp) (op : HostOp) (h : l.head? = some op) : ∃ rest, l = op :: rest := by
  cases l <;> simp_all

/-- TransformsAreInvertedByTheirInverses and DecryptionInvertsEncryption: states that meet the premises of the
command-level clause, for every pair. -/
theorem witness_oneCommandAfterAnother :
    ∀ p ∈ commandPairs, ∃ s a b t : State, commandRun p.1 s a ∧
      Relation.ReflTransGen betweenStep a b ∧ b.rkin = a.rkin ∧ b.key = a.key ∧
      commandRun p.2 b t := by
  intro p hp
  obtain ⟨hstep, hphase, hturn, h0, h3, h4, hk, hr⟩ := twoCommands_steps p hp
  have st : ∀ n < 6, stepsTo (twoCommandsAt p.1 p.2 n) (twoCommandsAt p.1 p.2 (n + 1)) := fun n hn =>
    have h := hstep n (List.mem_range.2 hn)
    ⟨h.2.1, h.2.2, eq_next_of_nextOf _ _ h.1⟩
  simp only [List.map_cons, List.map_nil, List.cons.injEq, and_true] at hphase hturn
  obtain ⟨p0, p1, p2, p3, p4, p5, p6⟩ := hphase
  obtain ⟨u0, u2, u4, u5⟩ := hturn
  refine ⟨twoCommandsAt p.1 p.2 0, twoCommandsAt p.1 p.2 3, twoCommandsAt p.1 p.2 4,
    twoCommandsAt p.1 p.2 6, ⟨p0, ⟨u0, host_of_head _ _ h0⟩, _, _, st 0 (by omega),
      .single ⟨st 1 (by omega), p2.trans p1.symm⟩, u2, st 2 (by omega)⟩,
    .single ⟨st 3 (by omega), .inl p3, .inl p4, ?_⟩, hr, hk,
    ⟨p4, ⟨u4, host_of_head _ _ h4⟩, _, _, st 4 (by omega), .refl, u5, st 5 (by omega)⟩⟩
  rintro k v ⟨-, rest, hw⟩
  obtain ⟨rest', hh⟩ := host_of_head _ _ h3
  rw [hw] at hh
  simp [writeOf, readOf] at hh

/-- BlockResultDependsOnStateAndKeyOnly: two states that differ in everything else. -/
theorem witness_blockResult :
    (inFlight .encryptBlock 1 2 3).phase = .busy .encryptBlock ∧
      ({ inFlight .encryptBlock 1 2 4 with rkv := true, ctrl := 3, err := true } : State).phase =
        .busy .encryptBlock ∧
      (inFlight .encryptBlock 1 2 3).state =
        ({ inFlight .encryptBlock 1 2 4 with rkv := true, ctrl := 3, err := true } : State).state ∧
      (inFlight .encryptBlock 1 2 3).key =
        ({ inFlight .encryptBlock 1 2 4 with rkv := true, ctrl := 3, err := true } : State).key := by
  decide +kernel

/-- NoErrorAfterCommandWriteMeansAccepted: an accepted word. -/
theorem witness_noError :
    State.reset.err = false ∧
      (nextOf (busAccess (writeOf 0x004#12 0x00000001#32) State.reset)).map (fun t => t.err) =
        some false := by decide +kernel

/-- A command in flight, a host that reads STATE and writes KEY before the engine's turn. -/
def twoHostTurns : State :=
  { inPhase (.busy .encryptBlock) with
    host := [.access (readOf 0x020#12), .access (writeOf 0x010#12 0x11111111#32)]
    sched := List.replicate 2 .host ++ .engine :: [] }

/-- AcceptedCommandCompletesUnderAnyHostAccesses. -/
theorem witness_twoHostTurns :
    twoHostTurns.rstN = true ∧ twoHostTurns.phase = .busy .encryptBlock ∧
      twoHostTurns.sched = List.replicate 2 .host ++ .engine :: [] ∧
      ∀ op ∈ twoHostTurns.host, ∀ a, op = .access a → a.size ≠ .reserved := by
  refine ⟨rfl, rfl, rfl, ?_⟩
  intro op h a ha
  subst ha
  have h' : a ∈ [readOf 0x020#12, writeOf 0x010#12 0x11111111#32] := by
    simpa [twoHostTurns] using h
  fin_cases h' <;> decide

/-- BaseAndLatencyAreAdmissible: the first address past the window, for any base. -/
theorem witness_outsideWindow : Config.base + 4096 ≤ Config.base + 4096 := Nat.le_refl _

/-- FieldInverse, RoundConstantsAndWordFunctions and SboxTablesArePermutations: operands that meet the
premises. -/
theorem witness_fieldOperands :
    (0x53#8 : Byte) ≠ 0 ∧ gmul 0x53#8 0xCA#8 = 0x01#8 ∧ (1 ≤ 1 ∧ 9 ≤ 9) ∧
      sbox 0x53#8 = sbox 0x53#8 := by decide +kernel

/-- ExpansionStartsWithTheKey: the least and the greatest index of its recurrence. -/
theorem witness_scheduleIndex : (4 ≤ 5 ∧ 5 % 4 ≠ 0) ∧ (43 < 44 ∧ 43 % 4 ≠ 0) := by decide

/-- SubBytesResult to AddRoundKeyResult: the last byte index, row and column of their ranges. -/
theorem witness_byteIndex : 15 < 16 ∧ 3 < 4 := by decide

/-- ReferenceFsmMeetsTheContract: a cycle before the end of every command. -/
theorem witness_cycleBeforeEnd : ∀ i : Instr, 0 < Config.referenceLatency i := by
  intro i; cases i <;> decide

end Sys2Proof.Tests
end

namespace Sys2Proof.Machine

/-! The register window and the latency parameter, as spec/00_scope.md R10 and spec/20_memory.md R50 and
R65 constrain them. `Config.basePage` and `Config.latencyLessOne` are opaque: nothing here reads them. -/

theorem base_mod_page : Config.base % 4096 = 0 := Nat.mul_mod_right 4096 Config.basePage

theorem one_le_latency (i : Instr) : 1 ≤ Config.latency i :=
  Nat.le_add_left 1 (Config.latencyLessOne i)

theorem busAddress_mem_window (off : BitVec 12) :
    Config.base ≤ busAddress off ∧ busAddress off < Config.base + 4096 :=
  ⟨Nat.le_add_right _ _, Nat.add_lt_add_left off.isLt _⟩

theorem busAddress_sub_base (off : BitVec 12) : busAddress off - Config.base = off.toNat :=
  Nat.add_sub_cancel_left Config.base off.toNat

/-- `windowOffset` undoes `busAddress`, as `off = addr - BASE` asks (spec/20_memory.md R50). -/
@[simp] theorem windowOffset_busAddress (off : BitVec 12) : windowOffset (busAddress off) = some off := by
  rw [windowOffset, if_pos (busAddress_mem_window off), busAddress_sub_base, BitVec.ofNat_toNat,
    BitVec.setWidth_eq]

theorem windowOffset_eq_none_iff (addr : Nat) :
    windowOffset addr = none ↔ addr < Config.base ∨ Config.base + 4096 ≤ addr := by
  simp only [windowOffset, ite_eq_right_iff, reduceCtorEq, imp_false]
  omega

/-- Settles O50: `BASE` is a multiple of the page size by definition, and `LAT` is a successor. -/
theorem baseAndLatencyAreAdmissible : Obligations.BaseAndLatencyAreAdmissible :=
  ⟨base_mod_page, windowOffset_busAddress, fun addr => (windowOffset_eq_none_iff addr).mpr,
    one_le_latency⟩

end Sys2Proof.Machine

namespace Sys2Proof.Machine

open Sys2Proof.Safety

/-! The STATUS and CTRL words, bit by bit (spec/10_state.md R24, R26 to R30). -/

theorem isBusy_eq_true_iff (r : Regs) : isBusy r = true ↔ ∃ c, r.phase = .busy c := by
  cases h : r.phase <;> simp [isBusy, h]

theorem isBusy_eq_false_iff (r : Regs) : isBusy r = false ↔ r.phase = .idle := by
  cases h : r.phase <;> simp [isBusy, h]

theorem statusWord_getLsbD (r : Regs) (i : Nat) :
    (statusWord r).getLsbD i =
      match i with
      | 0 => isBusy r
      | 1 => r.done
      | 2 => r.err
      | 3 => r.rkv
      | i + 4 => r.errCode.getLsbD i := by
  rcases i with _ | _ | _ | _ | i <;>
    simp only [statusWord, BitVec.getLsbD_setWidth, BitVec.getLsbD_append] <;> simp
  intro h
  have := BitVec.lt_of_getLsbD h
  omega

theorem ctrlWord_getLsbD (r : Regs) (i : Nat) : (ctrlWord r).getLsbD i = r.ctrl.getLsbD i := by
  simp only [ctrlWord, BitVec.getLsbD_setWidth, Bool.and_eq_right_iff_imp, decide_eq_true_eq]
  intro h
  have := BitVec.lt_of_getLsbD h
  omega

theorem statusWord_errCode (r : Regs) : (statusWord r).extractLsb' 4 4 = r.errCode := by
  ext i hi
  rw [BitVec.getElem_extractLsb', Nat.add_comm, statusWord_getLsbD]
  exact BitVec.getLsbD_eq_getElem hi

theorem statusWord_reserved (r : Regs) : (statusWord r).extractLsb' 8 24 = 0 := by
  ext i hi
  rw [BitVec.getElem_extractLsb', show 8 + i = i + 4 + 4 by omega, statusWord_getLsbD]
  simp

theorem ctrlWord_defined (r : Regs) : (ctrlWord r).extractLsb' 0 2 = r.ctrl := by
  ext i hi
  rw [BitVec.getElem_extractLsb', Nat.zero_add, ctrlWord_getLsbD, BitVec.getLsbD_eq_getElem hi]

theorem ctrlWord_reserved (r : Regs) : (ctrlWord r).extractLsb' 2 30 = 0 := by
  ext i hi
  rw [BitVec.getElem_extractLsb', ctrlWord_getLsbD]
  simp

/-- Settles O34: each field of the two words, read off their bits. -/
theorem statusAndControlWordLayout : Obligations.StatusAndControlWordLayout := fun r =>
  ⟨by rw [statusWord_getLsbD, isBusy_eq_true_iff], statusWord_getLsbD r 1, statusWord_getLsbD r 2,
    statusWord_getLsbD r 3, statusWord_errCode r, statusWord_reserved r, ctrlWord_defined r,
    ctrlWord_reserved r⟩

/-- Settles O33: the two causes and the two enables are bits of the two words. -/
theorem interruptIsTheLevelOfEnabledCauses : Obligations.InterruptIsTheLevelOfEnabledCauses := by
  intro r
  simp only [statusWord_getLsbD, ctrlWord_getLsbD, irq, ieDone, ieErr]

/-! One host write that is let through, as a whole step. -/

/-- The step of a host write out of reset: the write's effect, the line done, the turn taken and `ok`
answered. -/
theorem step_of_hostWrite (s : State) (g : Reg) (v : Word) (rest : List HostOp)
    (hg : ∀ i, g ≠ .rk i) (hn : s.rstN = true) (ht : turnOf s = .host)
    (hh : s.host = .access (writeOf (offsetOf g) v) :: rest) :
    step s = .next (answer .ok { s with
      host := rest, sched := s.sched.tail, toRegs := writeEffect g v s.toRegs }) := by
  rw [step_eq, ht, takeTurn, reqReady, if_pos hn]
  simp only [hostTurn, hh]
  exact busAccess_write g v _ hg

theorem writeEffect_cmd_idle (v : Word) (i : Instr) (r : Regs) (hp : r.phase = .idle)
    (hd : decode v = .ok i) : writeEffect .cmd v r = commandEvent i (commandEffect i) r := by
  simp [writeEffect, (isBusy_eq_false_iff r).mpr hp, hd]

theorem decodeTableWord_eq_some_iff (nbits w : Nat) (i : Instr) :
    decodeTableWord nbits w = some i ↔ decode (tableWord nbits w) = .ok i := by
  unfold decodeTableWord
  split <;> simp_all

/-- Settles O6: the placed line is a CMD write at the host's turn, and such a write runs `exec`. -/
theorem placedWordIsRunByTheNextStep : Obligations.PlacedWordIsRunByTheNextStep := by
  intro s nbits w i hi
  have hd := (decodeTableWord_eq_some_iff nbits w i).mp hi
  have hw := step_of_hostWrite (s.withFetchWord nbits w) .cmd (tableWord nbits w) s.host
    (by simp) rfl rfl rfl
  rw [writeEffect_cmd_idle _ i _ rfl hd] at hw
  rw [hw, exec_eq]
  rfl

/-! The reset state (spec/10_state.md R38). -/

theorem blockWord_zero (k : Nat) : blockWord Block.zero k = 0 := by
  unfold blockWord
  split <;> rfl

theorem scheduleWord_replicate_zero (i : Nat) : scheduleWord (Vector.replicate 44 0) i = 0 :=
  List.getElem?_getD_replicate_default_eq 0 44 i

theorem heldValue_reset (g : Reg) : heldValue g Regs.reset = 0 := by
  cases g with
  | ctrl => rfl
  | cmd => rfl
  | status => rfl
  | key k => exact blockWord_zero k
  | state k => exact blockWord_zero k
  | rkin k => exact blockWord_zero k
  | rk i => exact scheduleWord_replicate_zero i

/-- Settles O37: the read of every register is `heldValue_reset`, the tables are looked up. -/
theorem resetState : Obligations.ResetState :=
  ⟨rfl, rfl, heldValue_reset .status, rfl, rfl, rfl, rfl, fun i => Vector.getElem_replicate i.isLt, rfl,
    heldValue_reset, by decide⟩

/-! `commandEffect_frame` as rewrite rules for `simp`, one per register and RKV, by the write set of the command
(spec/40_command_execution.md R106). -/

@[simp] theorem commandEffect_ctrl (i : Instr) (r : Regs) : (commandEffect i r).ctrl = r.ctrl := by
  cases i <;> rfl
@[simp] theorem commandEffect_err (i : Instr) (r : Regs) : (commandEffect i r).err = r.err := by
  cases i <;> rfl
@[simp] theorem commandEffect_errCode (i : Instr) (r : Regs) :
    (commandEffect i r).errCode = r.errCode := by
  cases i <;> rfl
@[simp] theorem commandEffect_key (i : Instr) (r : Regs) : (commandEffect i r).key = r.key := by
  cases i <;> rfl
@[simp] theorem commandEffect_rkin (i : Instr) (r : Regs) : (commandEffect i r).rkin = r.rkin := by
  cases i <;> rfl
@[simp] theorem commandEffect_rk (i : Instr) (r : Regs) :
    (commandEffect i r).rk = if writesSchedule i then expandKey r.key else r.rk := by
  cases i <;> rfl
@[simp] theorem commandEffect_rkv (i : Instr) (r : Regs) :
    (commandEffect i r).rkv = if writesSchedule i then true else r.rkv := by
  cases i <;> rfl
@[simp] theorem commandEffect_expandKey_state (r : Regs) :
    (commandEffect .expandKey r).state = r.state := rfl

theorem mem_of_writesSchedule (c : Instr) (h : writesSchedule c = true) :
    c ∈ [Instr.expandKey, .encryptBlock, .decryptBlock] := by
  cases c <;> simp_all [writesSchedule]

/-! The events that can change the core out of reset (spec/10_state.md R41). -/

/-- What the step from `s` to `t` is for the core: one of the events in the rows of R41, or nothing. Each
event carries the premises under which `OnlyTheirEventsWriteRegisters` names it. -/
inductive CoreEvent (s t : State) : Prop
  | nothing (ht : t.toRegs = s.toRegs)
  | ctrlWrite (v : Word) (hw : hostWrites s .ctrl v) (ht : t.toRegs = writeCtrl v s.toRegs)
  | statusWrite (v : Word) (hw : hostWrites s .status v) (ht : t.toRegs = writeStatus v s.toRegs)
  | keyWrite (k : Fin 4) (v : Word) (hp : s.phase = .idle) (hw : hostWrites s (.key k) v)
      (ht : t.toRegs = writeKeyWord k v s.toRegs)
  | stateWrite (k : Fin 4) (v : Word) (hp : s.phase = .idle) (hw : hostWrites s (.state k) v)
      (ht : t.toRegs = writeStateWord k v s.toRegs)
  | rkinWrite (k : Fin 4) (v : Word) (hp : s.phase = .idle) (hw : hostWrites s (.rkin k) v)
      (ht : t.toRegs = writeRkinWord k v s.toRegs)
  | cmdError (e : CmdError) (he : makesError e s) (ht : t.toRegs = raiseCmdError e s.toRegs)
  | accept (c : Instr) (hc : accepts c s t) (ht : t.toRegs = acceptFlags c s.toRegs)
  | complete (c : Instr) (hc : completes c s t)
      (ht : t.toRegs = completeFlags (commandEffect c s.toRegs))

/-- With no command in flight each write is an event of its own. -/
theorem coreEvent_of_hostWrite_idle (s t : State) (g : Reg) (v : Word) (hw : hostWrites s g v)
    (hp : s.phase = .idle) (ht : t.toRegs = writeEffect g v s.toRegs) : CoreEvent s t := by
  have hb := (isBusy_eq_false_iff _).mpr hp
  cases g with
  | ctrl => exact .ctrlWrite v hw ht
  | status => exact .statusWrite v hw ht
  | key k => exact .keyWrite k v hp hw (by simpa [writeEffect, guardBusy, hb] using ht)
  | state k => exact .stateWrite k v hp hw (by simpa [writeEffect, guardBusy, hb] using ht)
  | rkin k => exact .rkinWrite k v hp hw (by simpa [writeEffect, guardBusy, hb] using ht)
  | rk i => exact .nothing ht
  | cmd =>
    cases hd : decode v with
    | error why =>
      exact .cmdError .illegalCmd ⟨hp, v, why, hw, hd⟩ (by simpa [writeEffect, hb, hd] using ht)
    | ok c =>
      have ht : t.toRegs = acceptFlags c s.toRegs := by
        simpa [writeEffect, hb, hd, commandEvent_idle _ _ _ hp] using ht
      exact .accept c ⟨hp, ⟨v, hw, hd⟩, by simp [ht], by simp [ht]⟩ ht

/-- A host write while a command is in flight: CTRL and STATUS are written, the rest is a violation. -/
theorem coreEvent_of_hostWrite_busy (s t : State) (g : Reg) (v : Word) (hw : hostWrites s g v)
    (hp : s.phase ≠ .idle) (ht : t.toRegs = writeEffect g v s.toRegs) : CoreEvent s t := by
  have hb := eq_true_of_ne_false (mt (isBusy_eq_false_iff _).mp hp)
  have violation (hg : g = .cmd ∨ (∃ k, g = .key k) ∨ (∃ k, g = .state k) ∨ ∃ k, g = .rkin k)
      (he : writeEffect g v s.toRegs = raiseCmdError .busyViolation s.toRegs) : CoreEvent s t :=
    .cmdError .busyViolation ⟨hp, g, v, hw, hg⟩ (ht.trans he)
  cases g with
  | ctrl => exact .ctrlWrite v hw ht
  | status => exact .statusWrite v hw ht
  | rk i => exact .nothing ht
  | cmd => exact violation (by simp) (by simp [writeEffect, hb])
  | key k => exact violation (by simp) (by simp [writeEffect, guardBusy, hb])
  | state k => exact violation (by simp) (by simp [writeEffect, guardBusy, hb])
  | rkin k => exact violation (by simp) (by simp [writeEffect, guardBusy, hb])

theorem coreEvent_of_coreMove (s t : State) (h : coreMove s t.toRegs) : CoreEvent s t := by
  obtain ht | ⟨g, v, hw, ht⟩ | ⟨hu, c, hp, ht⟩ := h
  · exact .nothing ht
  · by_cases hp : s.phase = .idle
    · exact coreEvent_of_hostWrite_idle s t g v hw hp ht
    · exact coreEvent_of_hostWrite_busy s t g v hw hp ht
  · exact .complete c ⟨hu, hp, by simp [ht], by simp [ht]⟩ ht

/-- An invariant of the core's registers needs two facts only: the reset values have it, in reset and at either
edge of it, and each event keeps it. -/
theorem invariant_of_coreEvent (P : Regs → Prop) (hreset : P Regs.reset)
    (hevent : ∀ s t : State, P s.toRegs → CoreEvent s t → P t.toRegs) :
    P State.reset.toRegs ∧ ∀ s t : State, P s.toRegs → step s = .next t → P t.toRegs := by
  refine ⟨hreset, fun s t hs h => ?_⟩
  obtain ⟨ht, -⟩ | ⟨-, -, hm⟩ := step_core s t h
  · rwa [ht]
  · exact hevent s t hs (coreEvent_of_coreMove s t hm)

/-! The invariants of R39 and R40. -/

theorem phaseInv_reset : phaseInv Regs.reset := by simp [phaseInv, Regs.reset, isBusy]

theorem rkvInv_reset : rkvInv Regs.reset := nofun

theorem errorCode_ne_zero (e : CmdError) : errorCode e ≠ 0#4 := by cases e <;> decide

theorem phaseInv_of_coreEvent (s t : State) (hs : phaseInv s.toRegs) (h : CoreEvent s t) :
    phaseInv t.toRegs := by
  obtain ⟨hdone, herr⟩ := hs
  cases h with
  | cmdError e _ ht =>
    refine ⟨by simpa [ht, isBusy] using hdone, ?_⟩
    have hcode := errorCode_ne_zero e
    cases hheld : s.err <;> simp_all
  | statusWrite v _ ht =>
    refine ⟨fun hb => ?_, ?_⟩
    · have : s.done = false := hdone (by simpa [ht, isBusy] using hb)
      simp [ht, this]
    · rw [ht, writeStatus_err, writeStatus_errCode]
      by_cases hv : v.getLsbD 2 = true
      · simp only [if_pos hv]
      · simp only [if_neg hv, herr]
  | accept c _ ht => exact ⟨by simp [ht], by simpa [ht] using herr⟩
  | complete c _ ht => exact ⟨by simp [ht, isBusy], by simpa [ht] using herr⟩
  | _ => simp_all [phaseInv, isBusy]

theorem rkvInv_of_coreEvent (s t : State) (hs : rkvInv s.toRegs) (h : CoreEvent s t) :
    rkvInv t.toRegs := by
  cases h with
  | keyWrite k v _ _ ht => simp [rkvInv, ht]
  | accept c _ ht =>
    by_cases hw : writesSchedule c = true
    · simp [rkvInv, ht, hw]
    · simpa [rkvInv, ht, hw] using hs
  | complete c _ ht =>
    by_cases hw : writesSchedule c = true
    · simp [rkvInv, ht, hw]
    · simpa [rkvInv, ht, hw] using hs
  | _ => simp_all [rkvInv]

/-- Settles O40: `phaseInv` holds at reset and each event of the core keeps it. -/
theorem stepKeepsPhaseInvariants : Obligations.StepKeepsPhaseInvariants :=
  invariant_of_coreEvent phaseInv phaseInv_reset phaseInv_of_coreEvent

/-- Settles O41: `rkvInv` holds at reset and each event of the core keeps it. -/
theorem stepKeepsRoundKeysValid : Obligations.StepKeepsRoundKeysValid :=
  invariant_of_coreEvent rkvInv rkvInv_reset rkvInv_of_coreEvent

/-- Settles O44: each invariant holds of the reset values. -/
theorem resetMeetsTheInvariants : Obligations.ResetMeetsTheInvariants :=
  ⟨phaseInv_reset, .inl rfl, rkvInv_reset, fun _ => rfl, rfl⟩

/-! Who writes what, one lemma per register (spec/10_state.md R41). The last case of each proof stands for the
events that leave the register as it is. -/

section WhoWritesWhat

variable {s t : State} (h : CoreEvent s t)
include h

theorem CoreEvent.ctrl_change (hne : t.ctrl ≠ s.ctrl) :
    ∃ v, hostWrites s .ctrl v ∧ t.ctrl = v.extractLsb' 0 2 := by
  cases h with
  | ctrlWrite v hw ht => exact ⟨v, hw, by simp [ht]⟩
  | _ => exact absurd (by simp [*]) hne

theorem CoreEvent.phase_change (hne : t.phase ≠ s.phase) :
    (∃ c, accepts c s t) ∨ ∃ c, completes c s t := by
  cases h with
  | accept c hc _ => exact .inl ⟨c, hc⟩
  | complete c hc _ => exact .inr ⟨c, hc⟩
  | _ => exact absurd (by simp [*]) hne

theorem CoreEvent.done_set (h0 : s.done = false) (h1 : t.done = true) : ∃ c, completes c s t := by
  cases h with
  | complete c hc _ => exact ⟨c, hc⟩
  | _ => simp_all

theorem CoreEvent.done_clear (h1 : s.done = true) (h0 : t.done = false) :
    (∃ c, accepts c s t) ∨ ∃ v, hostWrites s .status v ∧ v.getLsbD 1 = true := by
  cases h with
  | accept c hc _ => exact .inl ⟨c, hc⟩
  | statusWrite v hw ht => exact .inr ⟨v, hw, by simp_all⟩
  | _ => simp_all

theorem CoreEvent.rkv_set (h0 : s.rkv = false) (h1 : t.rkv = true) :
    ∃ c ∈ [Instr.expandKey, .encryptBlock, .decryptBlock], completes c s t := by
  cases h with
  | complete c hc ht => exact ⟨c, mem_of_writesSchedule c (by simp_all), hc⟩
  | _ => simp_all

theorem CoreEvent.rkv_clear (h1 : s.rkv = true) (h0 : t.rkv = false) :
    (∃ c ∈ [Instr.expandKey, .encryptBlock, .decryptBlock], accepts c s t) ∨
      s.phase = .idle ∧ ∃ k v, hostWrites s (.key k) v := by
  cases h with
  | accept c hc ht => exact .inl ⟨c, mem_of_writesSchedule c (by simp_all), hc⟩
  | keyWrite k v hp hw _ => exact .inr ⟨hp, k, v, hw⟩
  | _ => simp_all

theorem CoreEvent.err_change (hne : t.err ≠ s.err ∨ t.errCode ≠ s.errCode) :
    (∃ v, hostWrites s .status v ∧ v.getLsbD 2 = true ∧ t.err = false ∧ t.errCode = 0) ∨
      ∃ e, makesError e s ∧ t.err = true ∧
        t.errCode = if s.err then s.errCode else errorCode e := by
  cases h with
  | statusWrite v hw ht =>
    have hv : v.getLsbD 2 = true := by
      by_contra hv
      simp only [ht, writeStatus_err, writeStatus_errCode, if_neg hv] at hne
      simp at hne
    exact .inl ⟨v, hw, hv, by rw [ht, writeStatus_err, if_pos hv],
      by rw [ht, writeStatus_errCode, if_pos hv]⟩
  | cmdError e he ht => exact .inr ⟨e, he, by simp [ht], by simp [ht]⟩
  | _ => simp_all

theorem CoreEvent.key_change (hne : t.key ≠ s.key) :
    s.phase = .idle ∧ t.rkv = false ∧
      ∃ k v, hostWrites s (.key k) v ∧ t.key = setBlockWord s.key k v := by
  cases h with
  | keyWrite k v hp hw ht => exact ⟨hp, by simp [ht], k, v, hw, by simp [ht]⟩
  | _ => exact absurd (by simp [*]) hne

theorem CoreEvent.rkin_change (hne : t.rkin ≠ s.rkin) :
    s.phase = .idle ∧ ∃ k v, hostWrites s (.rkin k) v ∧ t.rkin = setBlockWord s.rkin k v := by
  cases h with
  | rkinWrite k v hp hw ht => exact ⟨hp, k, v, hw, by simp [ht]⟩
  | _ => exact absurd (by simp [*]) hne

theorem CoreEvent.state_change (hne : t.state ≠ s.state) :
    (s.phase = .idle ∧ ∃ k v, hostWrites s (.state k) v ∧ t.state = setBlockWord s.state k v) ∨
      ∃ c, c ≠ .expandKey ∧ completes c s t := by
  cases h with
  | stateWrite k v hp hw ht => exact .inl ⟨hp, k, v, hw, by simp [ht]⟩
  | complete c hc ht =>
    refine .inr ⟨c, ?_, hc⟩
    rintro rfl
    exact hne (by simp [ht])
  | _ => exact absurd (by simp [*]) hne

theorem CoreEvent.rk_change (hne : t.rk ≠ s.rk) :
    ∃ c ∈ [Instr.expandKey, .encryptBlock, .decryptBlock],
      completes c s t ∧ t.rk = expandKey s.key := by
  cases h with
  | complete c hc ht =>
    have hw : writesSchedule c = true := by
      by_contra hw
      exact hne (by simp [ht, hw])
    exact ⟨c, mem_of_writesSchedule c hw, hc, by simp [ht, hw]⟩
  | _ => exact absurd (by simp [*]) hne

/-- Only the completion of a command takes the phase from in flight to idle. -/
theorem CoreEvent.toRegs_of_completes (c : Instr) (hc : completes c s t) :
    t.toRegs = completeFlags (commandEffect c s.toRegs) := by
  obtain ⟨-, hs, hi, -⟩ := hc
  cases h with
  | complete d hd ht =>
    obtain ⟨-, hd, -⟩ := hd
    simp_all
  | accept d hd _ =>
    obtain ⟨-, -, hd, -⟩ := hd
    simp_all
  | _ => simp_all

end WhoWritesWhat

/-- Settles O46: a step out of reset is a `CoreEvent`, and each register's lemma says which one writes it. -/
theorem onlyTheirEventsWriteRegisters : Obligations.OnlyTheirEventsWriteRegisters := by
  intro s t hst
  have h := coreEvent_of_coreMove s t (coreMove_of_stepsTo s t hst)
  refine ⟨h.ctrl_change, h.phase_change, h.done_set, h.done_clear, h.rkv_set, h.rkv_clear,
    h.err_change, h.key_change, h.rkin_change, h.state_change, h.rk_change, fun c hc => ?_⟩
  simp [h.toRegs_of_completes c hc]

end Sys2Proof.Machine

namespace Sys2Proof.Machine

/-! The register map (spec/20_memory.md R51), read from offsets to registers. -/

theorem regAt_eq_some_iff (off : BitVec 12) (g : Reg) : regAt off = some g ↔ off = offsetOf g :=
  ⟨eq_offsetOf_of_regAt off g, fun h => h ▸ (regAt_offsetOf g).1⟩

theorem eq_ofNat_iff_toNat_eq (off : BitVec 12) (n : Nat) (hn : n < 4096) :
    off = BitVec.ofNat 12 n ↔ off.toNat = n := by
  rw [← BitVec.toNat_inj, BitVec.toNat_ofNat, Nat.mod_eq_of_lt hn]

/-- Settles O23: a register is found at its `offsetOf` only, and no offset of the map overflows 12 bits. -/
theorem registerMapIsExact : Obligations.RegisterMapIsExact := by
  intro off g
  rw [regAt_eq_some_iff]
  cases g with
  | ctrl | cmd | status => exact eq_ofNat_iff_toNat_eq off _ (by decide)
  | key k | state k | rkin k | rk k => exact eq_ofNat_iff_toNat_eq off _ (by omega)

/-- The holes of the map (spec/20_memory.md R58). -/
theorem regAt_eq_none (off : BitVec 12)
    (h : off.toNat = 0x00C ∨ (0x040 ≤ off.toNat ∧ off.toNat ≤ 0x0FC) ∨ 0x1B0 ≤ off.toNat) :
    regAt off = none := by
  rw [Option.eq_none_iff_forall_ne_some]
  intro g hg
  have hoff := (registerMapIsExact off g).mp hg
  cases g <;> simp only at hoff <;> omega

/-- The words of the key schedule fill their range of the map. -/
theorem regAt_eq_rk (off : BitVec 12) (h4 : off.toNat % 4 = 0) (hlo : 0x100 ≤ off.toNat)
    (hhi : off.toNat ≤ 0x1AC) : ∃ i, regAt off = some (.rk i) := by
  refine ⟨⟨(off.toNat - 0x100) / 4, by omega⟩, (registerMapIsExact off _).mpr ?_⟩
  simp only
  omega

/-! The checks of an access in their order (spec/60_exceptions.md R208), and the size that R52 reserves. -/

theorem isAlignedWord_eq_true_iff (a : Access) :
    isAlignedWord a = true ↔ a.size = .four ∧ a.off.toNat % 4 = 0 := by
  cases hs : a.size <;> simp [isAlignedWord, hs]

theorem busCheck_misalignedOrNarrow (a : Access) (h : a.size ≠ .four ∨ a.off.toNat % 4 ≠ 0) :
    busCheck a = .error .misalignedOrNarrow := by
  rw [busCheck, if_neg]
  rw [isAlignedWord_eq_true_iff]
  exact not_and_or.mpr h

theorem busCheck_unmapped (a : Access) (h : isAlignedWord a = true) (hr : regAt a.off = none) :
    busCheck a = .error .unmapped := by
  rw [busCheck, if_pos h]
  simp only [hr]

theorem busCheck_readOnly (a : Access) (i : Fin 44) (h : isAlignedWord a = true)
    (hr : regAt a.off = some (.rk i)) (hk : a.kind = .write) : busCheck a = .error .readOnly := by
  rw [busCheck, if_pos h]
  simp only [hr, hk]

theorem busAccess_error (a : Access) (s : State) (e : BusError) (hs : a.size ≠ .reserved)
    (he : busCheck a = .error e) :
    busAccess a s = .next { s with log := .busError e :: s.log } := by
  cases h : a.size with
  | reserved => contradiction
  | _ => simp only [busAccess, h, he, answer]

theorem busAccess_reserved (a : Access) (s : State) (h : a.size = .reserved) :
    busAccess a s = .fault .reservedAccessSize := by
  simp only [busAccess, h]

/-- Settles O24: `busAccess_error` at the outcome of each of the three checks. -/
theorem busErrorsInTheirOrder : Obligations.BusErrorsInTheirOrder := by
  refine ⟨fun a s hs h => busAccess_error a s _ hs (busCheck_misalignedOrNarrow a h),
    fun a s hs h4 hoff => ?_, fun a s hs h4 hk hoff => ?_, fun e => ⟨rfl, rfl⟩⟩
  · exact busAccess_error a s _ (by simp [hs]) <|
      busCheck_unmapped a ((isAlignedWord_eq_true_iff a).mpr ⟨hs, h4⟩) (regAt_eq_none a.off hoff)
  · obtain ⟨i, hi⟩ := regAt_eq_rk a.off h4 hoff.1 hoff.2
    exact busAccess_error a s _ (by simp [hs]) <|
      busCheck_readOnly a i ((isAlignedWord_eq_true_iff a).mpr ⟨hs, h4⟩) hi hk

/-- Settles O25: the size is looked at before anything else. -/
theorem reservedAccessSizeStops : Obligations.ReservedAccessSizeStops := busAccess_reserved

/-! Reads (spec/20_memory.md R54, R62). -/

theorem busAccess_read_held (g : Reg) (s : State) (h : readsAny g s.toRegs = false) :
    busAccess (readOf (offsetOf g)) s =
      .next { s with log := .data (heldValue g s.toRegs) :: s.log } := by
  rw [readOf, busAccess_read, readReg, h]
  rfl

theorem stateInWriteSet_eq_false (r : Regs) (h : r.phase = .idle ∨ r.phase = .busy .expandKey) :
    stateInWriteSet r = false := by
  obtain h | h := h <;> simp [stateInWriteSet, h, writesState]

theorem scheduleInWriteSet_eq_false (r : Regs)
    (h : ∀ c ∈ [Instr.expandKey, .encryptBlock, .decryptBlock], r.phase ≠ .busy c) :
    scheduleInWriteSet r = false := by
  cases hp : r.phase with
  | idle => simp [scheduleInWriteSet, hp]
  | busy c =>
    rw [scheduleInWriteSet, hp]
    exact Bool.eq_false_iff.mpr fun hc => h c (mem_of_writesSchedule c hc) hp

theorem scheduleWord_eq_getElem (w : Vector Word 44) (i : Fin 44) : scheduleWord w i = w[i.val] := by
  simp [scheduleWord]

/-- Settles O26: outside the write set of the command in flight a read answers the value held. -/
theorem readsReturnTheRegister : Obligations.ReadsReturnTheRegister := by
  intro s
  refine ⟨busAccess_read_held .ctrl s rfl, busAccess_read_held .cmd s rfl,
    busAccess_read_held .status s rfl, fun k => busAccess_read_held (.key k) s rfl,
    fun k => busAccess_read_held (.rkin k) s rfl, fun k hp => ?_, fun k hp => ?_⟩
  · exact busAccess_read_held (.state k) s (stateInWriteSet_eq_false s.toRegs hp)
  · rw [← scheduleWord_eq_getElem]
    exact busAccess_read_held (.rk k) s (scheduleInWriteSet_eq_false s.toRegs hp)

/-- Settles O28: only a write can change the registers, by `busAccess_regs`. -/
theorem readsChangeNoCoreState : Obligations.ReadsChangeNoCoreState := by
  intro a s t hk h
  obtain ⟨hrst, hhost, hsched, hregs | ⟨g, v, rfl, -⟩⟩ := busAccess_regs a s t h
  · exact ⟨hregs, hrst, hhost, hsched⟩
  · cases hk

/-! Writes (spec/20_memory.md R55, R60). -/

theorem busAccess_writeOf (g : Reg) (v : Word) (s : State) (h : ∀ i, g ≠ .rk i) :
    busAccess (writeOf (offsetOf g) v) s =
      .next { s with toRegs := writeEffect g v s.toRegs, log := .ok :: s.log } :=
  busAccess_write g v s h

theorem writeStatus_eq (v : Word) (r : Regs) :
    writeStatus v r = { r with
      done := r.done && !v.getLsbD 1
      err := r.err && !v.getLsbD 2
      errCode := if v.getLsbD 2 then 0 else r.errCode } := by
  simp only [writeStatus, Bool.if_false_left, Bool.decide_eq_true, Bool.and_comm]

theorem guardBusy_idle (write : Regs → Regs) (r : Regs) (h : r.phase = .idle) :
    guardBusy write r = write r := by
  rw [guardBusy, (isBusy_eq_false_iff r).mpr h]
  rfl

/-- The write of an operand word is let through while no command is in flight (spec/40_command_execution.md
R107). -/
theorem busAccess_writeOf_guarded (g : Reg) (v : Word) (write : Regs → Regs) (s : State)
    (hg : ∀ i, g ≠ .rk i) (he : writeEffect g v s.toRegs = guardBusy write s.toRegs)
    (hp : s.phase = .idle) :
    busAccess (writeOf (offsetOf g) v) s =
      .next { s with toRegs := write s.toRegs, log := .ok :: s.log } := by
  rw [busAccess_writeOf g v s hg, he, guardBusy_idle write _ hp]

theorem blockWord_setBlockWord (b : Block) (k j : Fin 4) (v : Word) :
    blockWord (setBlockWord b k v) j = if j = k then v else blockWord b j := by
  fin_cases k <;> fin_cases j <;> rfl

/-- Settles O29: CTRL and STATUS are written in either phase, STATUS by the ones of `v`. -/
theorem controlAndStatusWrites : Obligations.ControlAndStatusWrites := by
  refine fun s v => ⟨busAccess_writeOf .ctrl v s nofun, ?_⟩
  have h := busAccess_writeOf .status v s nofun
  rwa [writeEffect, writeStatus_eq] at h

/-- Settles O30: with no command in flight the guarded write of the word is made. -/
theorem operandWritesWhenIdle : Obligations.OperandWritesWhenIdle := fun s v k hp =>
  ⟨⟨setBlockWord s.key k v, busAccess_writeOf_guarded (.key k) v _ s nofun rfl hp,
      fun j => blockWord_setBlockWord s.key k j v⟩,
    ⟨setBlockWord s.state k v, busAccess_writeOf_guarded (.state k) v _ s nofun rfl hp,
      fun j => blockWord_setBlockWord s.state k j v⟩,
    ⟨setBlockWord s.rkin k v, busAccess_writeOf_guarded (.rkin k) v _ s nofun rfl hp,
      fun j => blockWord_setBlockWord s.rkin k j v⟩⟩

/-! The host's turn out of reset (spec/20_memory.md R53, R67). -/

theorem takeTurn_host_access (s : State) (a : Access) (rest : List HostOp) (hn : s.rstN = true)
    (hh : s.host = .access a :: rest) : takeTurn .host s = busAccess a { s with host := rest } := by
  rw [takeTurn, reqReady, if_pos hn]
  simp only [hostTurn, hh]

theorem takeTurn_host_nil (s : State) (hn : s.rstN = true) (hh : s.host = []) :
    takeTurn .host s = .next s := by
  rw [takeTurn, reqReady, if_pos hn]
  simp only [hostTurn, hh]

theorem busAccess_commandWrite (s : State) (v : Word) (i : Instr) (hp : s.phase = .idle)
    (hd : decode v = .ok i) :
    busAccess (writeOf 0x004#12 v) s = mapNext (answer .ok) (exec i s) := by
  have h := busAccess_writeOf .cmd v s nofun
  rw [writeEffect_cmd_idle v i _ hp hd] at h
  rw [exec_eq]
  exact h

/-- Settles O4: a host turn is the access of the line, and `busAccess_commandWrite` for a CMD write. -/
theorem hostWriteOfCommandRunsIt : Obligations.HostWriteOfCommandRunsIt := by
  refine ⟨fun s a rest hn hh => ?_, fun s ts hn hh hs => ?_⟩
  · have hturn (ts : List Turn) (hs : s.sched = .host :: ts) :
        step s = busAccess a { s with host := rest, sched := ts } :=
      (step_cons s .host ts hs).trans (takeTurn_host_access { s with sched := ts } a rest hn hh)
    refine ⟨hturn, fun hs hp => ?_, fun ts v i hs hp ha hd => ?_⟩
    · rw [step_nil_idle s hs hp, takeTurn_host_access s a rest hn hh]
    · rw [hturn ts hs, ha]
      exact busAccess_commandWrite { s with host := rest, sched := ts } v i hp hd
  · rw [step_cons s .host ts hs]
    exact takeTurn_host_nil { s with sched := ts } hn hh

end Sys2Proof.Machine

namespace Sys2Proof

/-! The fields of a command word as numbers (spec/30_encoding.md R81). -/

theorem opField_toNat (v : Word) : (opField v).toNat = v.toNat % 16 := by
  simp [opField]

theorem rsvField_eq_zero_iff (v : Word) : rsvField v = 0 ↔ v.toNat / 16 = 0 := by
  have := v.isLt
  rw [← BitVec.toNat_inj, rsvField, BitVec.extractLsb'_toNat, Nat.shiftRight_eq_div_pow]
  change v.toNat / 16 % 2 ^ 28 = 0 ↔ _
  omega

/-- A word with RSV = 0 is its OP zero-extended (spec/30_encoding.md R83). -/
theorem eq_setWidth_iff_fields (v : Word) (op : BitVec 4) :
    v = op.setWidth 32 ↔ rsvField v = 0 ∧ opField v = op := by
  have := op.isLt
  rw [rsvField_eq_zero_iff, ← BitVec.toNat_inj, ← BitVec.toNat_inj (x := opField v), opField_toNat,
    BitVec.toNat_setWidth_of_le (by decide)]
  omega

/-! The opcode map, and the decoder that checks RSV before it (spec/30_encoding.md R83 to R86). -/

theorem instrOfOp_eq_ok_iff (op : BitVec 4) (i : Instr) : instrOfOp op = .ok i ↔ op = opOf i := by
  constructor
  · intro h
    unfold instrOfOp at h
    split at h <;> cases h <;> rfl
  · rintro rfl
    cases i <;> rfl

theorem instrOfOp_reserved (op : BitVec 4) (h : op.toNat = 0 ∨ 11 ≤ op.toNat) :
    instrOfOp op = .error .reservedOp := by
  revert op
  decide

theorem exists_instrOfOp_eq_ok (op : BitVec 4) (h1 : 1 ≤ op.toNat) (h10 : op.toNat ≤ 10) :
    ∃ i, instrOfOp op = .ok i := by
  have hok : ∀ op : BitVec 4, 1 ≤ op.toNat → op.toNat ≤ 10 → (instrOfOp op).isOk = true := by decide
  cases h : instrOfOp op with
  | ok i => exact ⟨i, rfl⟩
  | error e => simpa [h, Except.isOk, Except.toBool] using hok op h1 h10

theorem decode_of_rsvField_ne_zero (v : Word) (h : rsvField v ≠ 0) :
    decode v = .error .reservedBitsSet := if_pos h

theorem decode_of_rsvField_eq_zero (v : Word) (h : rsvField v = 0) :
    decode v = instrOfOp (opField v) := if_neg (not_not_intro h)

theorem decode_eq_ok_iff_fields (v : Word) (i : Instr) :
    decode v = .ok i ↔ rsvField v = 0 ∧ opField v = opOf i := by
  by_cases h : rsvField v = 0
  · rw [decode_of_rsvField_eq_zero v h, instrOfOp_eq_ok_iff]
    exact (and_iff_right h).symm
  · rw [decode_of_rsvField_ne_zero v h]
    exact iff_of_false nofun fun hf => h hf.1

/-- A command is decoded from its own word and from no other (spec/30_encoding.md R84). -/
theorem decode_eq_ok_iff (v : Word) (i : Instr) : decode v = .ok i ↔ v = encode i :=
  (decode_eq_ok_iff_fields v i).trans (eq_setWidth_iff_fields v (opOf i)).symm

/-- Settles O1: both sides say that RSV is 0 and OP is the command's; the ten words are computed. -/
theorem decodeAndEncodeAgree : Obligations.DecodeAndEncodeAgree :=
  ⟨decode_eq_ok_iff, rfl, rfl, rfl, rfl, rfl, rfl, rfl, rfl, rfl, rfl⟩

theorem decode_reservedOp (v : Word) (hrsv : v.toNat / 16 = 0) (hop : v.toNat = 0 ∨ 11 ≤ v.toNat) :
    decode v = .error .reservedOp := by
  rw [decode_of_rsvField_eq_zero v ((rsvField_eq_zero_iff v).mpr hrsv)]
  exact instrOfOp_reserved _ (by rw [opField_toNat]; omega)

theorem exists_decode_eq_ok (v : Word) (h1 : 1 ≤ v.toNat) (h10 : v.toNat ≤ 10) :
    ∃ i, decode v = .ok i := by
  rw [decode_of_rsvField_eq_zero v ((rsvField_eq_zero_iff v).mpr (by omega))]
  exact exists_instrOfOp_eq_ok _ (by rw [opField_toNat]; omega) (by rw [opField_toNat]; omega)

/-- Settles O2: RSV is the word divided by 16, and with RSV = 0 the word is its OP. -/
theorem reservedWordsAreIllegal : Obligations.ReservedWordsAreIllegal := fun v =>
  ⟨fun h => decode_of_rsvField_ne_zero v (mt (rsvField_eq_zero_iff v).mp h), decode_reservedOp v,
    exists_decode_eq_ok v⟩

/-- Settles O3: the legal words are those of `encode`, the others fall under the two reserved cases. -/
theorem wordsOfTheEncodingDecode : Obligations.WordsOfTheEncodingDecode :=
  ⟨(decode_eq_ok_iff _ _).mpr rfl, (decode_eq_ok_iff _ _).mpr rfl, (decode_eq_ok_iff _ _).mpr rfl,
    (decode_eq_ok_iff _ _).mpr rfl, (decode_eq_ok_iff _ _).mpr rfl, (decode_eq_ok_iff _ _).mpr rfl,
    decode_reservedOp _ (by decide) (by decide), decode_reservedOp _ (by decide) (by decide),
    decode_of_rsvField_ne_zero _ (by decide)⟩

end Sys2Proof

namespace Sys2Proof.Machine

/-! A WAIT line at the host's turn (spec/30_encoding.md R90). -/

/-- Bit 0 of the STATUS word read is BUSY, so the line comes again exactly while a command is in flight. -/
theorem repeatWait_statusRead (s : State) :
    repeatWait { s with log := .data (statusWord s.toRegs) :: s.log } =
      { s with
        log := .data (statusWord s.toRegs) :: s.log
        host := if s.phase = .idle then s.host else .wait :: s.host } := by
  simp only [repeatWait, latestData, responseData, statusWord_getLsbD]
  by_cases hp : s.phase = .idle
  · simp [hp, (isBusy_eq_false_iff _).mpr hp]
  · simp [hp, eq_true_of_ne_false (mt (isBusy_eq_false_iff s.toRegs).mp hp)]

theorem takeTurn_host_wait (s : State) (rest : List HostOp) (hn : s.rstN = true)
    (hh : s.host = .wait :: rest) :
    takeTurn .host s = .next { s with
      log := .data (statusWord s.toRegs) :: s.log
      host := if s.phase = .idle then rest else .wait :: rest } := by
  rw [takeTurn, reqReady, if_pos hn]
  simp only [hostTurn, hh]
  have hread := busAccess_read_held .status { s with host := rest } rfl
  rw [offsetOf] at hread
  rw [hread, mapNext]
  exact congrArg _ (repeatWait_statusRead { s with host := rest })

/-- Settles O35: either way it is the host's turn, and the turn is `takeTurn_host_wait`. -/
theorem waitPollsUntilNotBusy : Obligations.WaitPollsUntilNotBusy := by
  refine fun s rest ts hn hh => ⟨fun hs => ?_, fun hs hp => ?_⟩
  · rw [step_cons s .host ts hs]
    exact takeTurn_host_wait { s with sched := ts } rest hn hh
  · rw [step_nil_idle s hs hp, takeTurn_host_wait s rest hn hh, if_pos hp]

/-! One word of a MOVRK: a read of RK, then the write of its data to RKIN (spec/30_encoding.md R90). -/

theorem takeTurn_host_move (s : State) (g : Reg) (dst : BitVec 12) (rest : List HostOp)
    (hn : s.rstN = true) (hg : readsAny g s.toRegs = false)
    (hh : s.host = .move (offsetOf g) dst :: rest) :
    takeTurn .host s = .next { s with
      log := .data (heldValue g s.toRegs) :: s.log
      host := .access (writeOf dst (heldValue g s.toRegs)) :: rest } := by
  rw [takeTurn, reqReady, if_pos hn]
  simp only [hostTurn, hh]
  rw [busAccess_read_held g { s with host := rest } hg]
  rfl

theorem readsAny_of_idle (g : Reg) (r : Regs) (hp : r.phase = .idle) : readsAny g r = false := by
  cases g <;> simp [readsAny, stateInWriteSet, scheduleInWriteSet, hp]

/-- The next `n` turns are the host's, by the schedule or because it is empty, and leave `ts`. It is about
states with no command in flight, where an empty schedule gives the host the turn (log entry 6). -/
def HostTurnsThen (n : Nat) (ts sched : List Turn) : Prop :=
  sched = List.replicate n .host ++ ts ∨ sched = [] ∧ ts = []

theorem HostTurnsThen.eq_of_zero {ts sched : List Turn} (h : HostTurnsThen 0 ts sched) : sched = ts := by
  obtain h | ⟨rfl, rfl⟩ := h
  · exact h
  · rfl

theorem HostTurnsThen.tail {n : Nat} {ts sched : List Turn} (h : HostTurnsThen (n + 1) ts sched) :
    HostTurnsThen n ts sched.tail := by
  obtain rfl | ⟨rfl, rfl⟩ := h
  · exact .inl rfl
  · exact .inr ⟨rfl, rfl⟩

theorem HostTurnsThen.turnOf_eq {n : Nat} {ts : List Turn} {s : State}
    (h : HostTurnsThen (n + 1) ts s.sched) (hp : s.phase = .idle) : turnOf s = .host := by
  obtain h | ⟨h, -⟩ := h
  · exact turnOf_cons s .host _ h
  · exact turnOf_nil_idle s h hp

/-- The line that moves schedule word `m.1` to RKIN word `m.2`. -/
def moveLine (m : Fin 44 × Fin 4) : HostOp := .move (offsetOf (.rk m.1)) (offsetOf (.rkin m.2))

/-- What that line leaves in the core's registers. -/
def moveWord (r : Regs) (m : Fin 44 × Fin 4) : Regs := writeRkinWord m.2 (scheduleWord r.rk m.1) r

/-- A move line takes two host turns, the read of RK and the write of RKIN. -/
theorem run_moveLine (n : Nat) (m : Fin 44 × Fin 4) (rest : List HostOp) (ts : List Turn) (s : State)
    (hn : s.rstN = true) (hp : s.phase = .idle) (ht : HostTurnsThen (n + 2) ts s.sched)
    (hh : s.host = moveLine m :: rest) :
    ∃ t : State, Host.Core.run core (n + 2) s = Host.Core.run core n t ∧
      t.toRegs = moveWord s.toRegs m ∧ t.rstN = true ∧ t.host = rest ∧ HostTurnsThen n ts t.sched := by
  have hread := takeTurn_host_move { s with sched := s.sched.tail } (.rk m.1) _ rest hn
    (readsAny_of_idle _ _ hp) hh
  rw [← ht.turnOf_eq hp, ← step_eq] at hread
  rw [run_succ (n + 1) s _ hread]
  have hturn := HostTurnsThen.turnOf_eq (s := { s with sched := s.sched.tail }) ht.tail hp
  exact ⟨_, run_succ n _ _ (step_of_hostWrite _ (.rkin m.2) _ rest nofun hn hturn rfl),
    guardBusy_idle _ _ hp, hn, rfl, ht.tail.tail⟩

/-- Any number of move lines, by induction on them. -/
theorem run_moveLines (ms : List (Fin 44 × Fin 4)) (hs : List HostOp) (ts : List Turn) (s : State)
    (hn : s.rstN = true) (hp : s.phase = .idle) (ht : HostTurnsThen (2 * ms.length) ts s.sched)
    (hh : s.host = ms.map moveLine ++ hs) :
    ∃ t : State, Host.Core.run core (2 * ms.length) s = .next t ∧
      t.toRegs = ms.foldl moveWord s.toRegs ∧ t.rstN = true ∧ t.host = hs ∧ t.sched = ts := by
  induction ms generalizing s with
  | nil => exact ⟨s, run_zero s, rfl, hn, hh, ht.eq_of_zero⟩
  | cons m ms ih =>
    obtain ⟨u, hrun, hregs, hun, huh, hut⟩ := run_moveLine (2 * ms.length) m _ ts s hn hp ht hh
    obtain ⟨t, htrun, htregs, hrest⟩ := ih u hun (by rw [hregs]; exact hp) hut huh
    exact ⟨t, hrun.trans htrun, by rw [htregs, hregs]; rfl, hrest⟩

/-- The words of round key r in their order, each with its place in RKIN (spec/43_key_expansion.md R163). -/
def roundKeyMoves (r : Nat) (hr : r ≤ 10) : List (Fin 44 × Fin 4) :=
  [0, 1, 2, 3].map fun j : Fin 4 => (⟨4 * r + j, by omega⟩, j)

/-- Word j of round key r stands 4j bytes after the key's first (spec/20_memory.md R51). -/
theorem roundKeyOffset_add (r j : Nat) (h : 4 * r + j < 44) :
    roundKeyOffset r + BitVec.ofNat 12 (4 * j) = offsetOf (.rk ⟨4 * r + j, h⟩) := by
  rw [roundKeyOffset, ← BitVec.ofNat_add]
  refine congrArg (BitVec.ofNat 12) (?_ : _ = 0x100 + 4 * (4 * r + j))
  omega

theorem pseudoMovRk_eq_map (r : Nat) (hr : r ≤ 10) :
    pseudoMovRk r = (roundKeyMoves r hr).map moveLine := by
  simp only [roundKeyMoves, List.map, moveLine, ← roundKeyOffset_add, pseudoMovRk]
  simp [offsetOf]

/-- Settles O36: MOVRK is four move lines, and they fill the four words of RKIN. -/
theorem moveRoundKeyCopiesIt : Obligations.MoveRoundKeyCopiesIt := by
  intro s r hs ts hr hn hp ht hh
  rw [pseudoMovRk_eq_map r hr] at hh
  exact run_moveLines (roundKeyMoves r hr) hs ts s hn hp ht hh

end Sys2Proof.Machine

namespace Sys2Proof.Machine

/-! The three events in the life of a command, as `exec` answers them (spec/40_command_execution.md R101, R103,
R104; log entry 5). -/

theorem commandEvent_cases (i : Instr) (f : Regs → Regs) (r : Regs) :
    (r.phase = .idle ∧ commandEvent i f r = acceptFlags i r) ∨
      (r.phase = .busy i ∧ commandEvent i f r = completeFlags (f r)) ∨
      ∃ d, d ≠ i ∧ r.phase = .busy d ∧ commandEvent i f r = raiseCmdError .busyViolation r := by
  cases hp : r.phase with
  | idle => exact .inl ⟨rfl, commandEvent_idle i f r hp⟩
  | busy d =>
    by_cases hd : d = i
    · subst hd
      exact .inr (.inl ⟨rfl, commandEvent_inFlight d f r hp⟩)
    · exact .inr (.inr ⟨d, hd, rfl, commandEvent_otherInFlight i d f r hp hd⟩)

theorem writesSchedule_of_mem :
    ∀ i ∈ [Instr.expandKey, .encryptBlock, .decryptBlock], writesSchedule i = true := by decide

theorem not_writesSchedule_of_mem :
    ∀ i ∈ [Instr.subBytes, .invSubBytes, .shiftRows, .invShiftRows, .mixColumns, .invMixColumns,
      .addRoundKey], writesSchedule i = false := by decide

theorem exec_idle (i : Instr) (s : State) (hp : s.phase = .idle) :
    exec i s = .next { s with
      phase := .busy i, done := false, rkv := if writesSchedule i then false else s.rkv } := by
  rw [exec_eq, commandEvent_idle i _ _ hp, acceptFlags]

/-- Settles O7: acceptance clears RKV exactly for the commands that write the schedule. -/
theorem commandIsAcceptedWhenIdle : Obligations.CommandIsAcceptedWhenIdle := by
  refine fun s hp => ⟨fun i hi => ?_, fun i hi => ?_⟩
  · rw [exec_idle i s hp, if_pos (writesSchedule_of_mem i hi)]
  · rw [exec_idle i s hp, not_writesSchedule_of_mem i hi]
    rfl

/-- Settles O10: with another command in flight the event is a busy violation. -/
theorem commandIsTurnedAwayWhileAnotherRuns : Obligations.CommandIsTurnedAwayWhileAnotherRuns := by
  intro s i d hp hd
  rw [exec_eq, commandEvent_otherInFlight i d _ _ hp hd]
  rfl

theorem takeTurn_engine_busy (s : State) (c : Instr) (hn : s.rstN = true) (hp : s.phase = .busy c) :
    takeTurn .engine s = exec c s := by
  rw [takeTurn, if_pos hn]
  simp only [engineTurn, hp]

/-- Settles O5: either way it is the engine's turn, and the turn is `takeTurn_engine_busy`. -/
theorem engineTurnCompletesCommand : Obligations.EngineTurnCompletesCommand := fun s c ts hn hp =>
  ⟨fun hs => (step_cons s .engine ts hs).trans (takeTurn_engine_busy { s with sched := ts } c hn hp),
    fun hs => (step_nil_busy s c hs hp).trans (takeTurn_engine_busy s c hn hp)⟩

/-! What a command leaves as it is in whichever event comes next (spec/40_command_execution.md R106). -/

theorem commandEvent_frame (i : Instr) (r : Regs) :
    (commandEvent i (commandEffect i) r).ctrl = r.ctrl ∧
      (commandEvent i (commandEffect i) r).key = r.key ∧
      (commandEvent i (commandEffect i) r).rkin = r.rkin := by
  obtain ⟨-, h⟩ | ⟨-, h⟩ | ⟨d, -, -, h⟩ := commandEvent_cases i (commandEffect i) r <;> simp [h]

theorem commandEvent_state (i : Instr) (r : Regs) (hi : r.phase ≠ .busy i ∨ i = .expandKey) :
    (commandEvent i (commandEffect i) r).state = r.state := by
  obtain ⟨-, h⟩ | ⟨hp, h⟩ | ⟨d, -, -, h⟩ := commandEvent_cases i (commandEffect i) r
  · simp [h]
  · obtain rfl := hi.resolve_left (not_not_intro hp)
    simp [h]
  · simp [h]

theorem commandEvent_rk (i : Instr) (r : Regs)
    (hi : r.phase ≠ .busy i ∨ i ∉ [Instr.expandKey, .encryptBlock, .decryptBlock]) :
    (commandEvent i (commandEffect i) r).rk = r.rk := by
  obtain ⟨-, h⟩ | ⟨hp, h⟩ | ⟨d, -, -, h⟩ := commandEvent_cases i (commandEffect i) r
  · simp [h]
  · have hw := mt (mem_of_writesSchedule i) (hi.resolve_left (not_not_intro hp))
    simp [h, hw]
  · simp [h]

theorem commandEvent_errors (i : Instr) (r : Regs) (hi : r.phase = .idle ∨ r.phase = .busy i) :
    (commandEvent i (commandEffect i) r).err = r.err ∧
      (commandEvent i (commandEffect i) r).errCode = r.errCode := by
  obtain ⟨-, h⟩ | ⟨-, h⟩ | ⟨d, hd, hp, -⟩ := commandEvent_cases i (commandEffect i) r
  · simp [h]
  · simp [h]
  · simp [hp, hd] at hi

/-- Where CTRL, KEY and RKIN are the same, only STATUS, STATE and RK can read differently. -/
theorem group_of_heldValue_ne (g : Reg) (r r' : Regs) (hc : r'.ctrl = r.ctrl) (hk : r'.key = r.key)
    (hr : r'.rkin = r.rkin) (hg : g ≠ .status) (hne : heldValue g r' ≠ heldValue g r) :
    (∃ k, g = .state k) ∧ r'.state ≠ r.state ∨ (∃ k, g = .rk k) ∧ r'.rk ≠ r.rk := by
  cases g with
  | status => contradiction
  | state k => exact .inl ⟨⟨k, rfl⟩, fun h => hne (by rw [heldValue, heldValue, h])⟩
  | rk k => exact .inr ⟨⟨k, rfl⟩, fun h => hne (by rw [heldValue, heldValue, h])⟩
  | ctrl => exact absurd (by rw [heldValue, heldValue, ctrlWord, ctrlWord, hc]) hne
  | cmd => exact absurd rfl hne
  | key k => exact absurd (by rw [heldValue, heldValue, hk]) hne
  | rkin k => exact absurd (by rw [heldValue, heldValue, hr]) hne

/-- Settles O22: one lemma for each field; a register of the map that reads differently is of STATE or RK. -/
theorem commandsWriteOnlyTheirWriteSet : Obligations.CommandsWriteOnlyTheirWriteSet := by
  intro i s t h
  rw [exec_eq] at h
  cases h
  obtain ⟨hctrl, hkey, hrkin⟩ := commandEvent_frame i s.toRegs
  refine ⟨hkey, hrkin, hctrl, rfl, rfl, rfl, rfl, rfl, commandEvent_state i s.toRegs,
    commandEvent_rk i s.toRegs, commandEvent_errors i s.toRegs, fun g hg hne => ?_⟩
  obtain ⟨hk, hne⟩ | ⟨hk, hne⟩ := group_of_heldValue_ne g _ _ hctrl hkey hrkin hg hne
  · obtain ⟨hp, hi⟩ := not_or.mp (mt (commandEvent_state i s.toRegs) hne)
    exact ⟨not_not.mp hp, .inl ⟨hk, hi⟩⟩
  · obtain ⟨hp, hi⟩ := not_or.mp (mt (commandEvent_rk i s.toRegs) hne)
    exact ⟨not_not.mp hp, .inr ⟨hk, not_not.mp hi⟩⟩

/-! Command errors of the host's writes (spec/40_command_execution.md R102, R103, R107). -/

theorem writeEffect_cmd_illegal (v : Word) (why : IllegalWord) (r : Regs) (hp : r.phase = .idle)
    (hd : decode v = .error why) : writeEffect .cmd v r = raiseCmdError .illegalCmd r := by
  simp [writeEffect, (isBusy_eq_false_iff r).mpr hp, hd]

/-- Settles O8: the effect of the write is the command error alone. -/
theorem illegalWordIsRecordedAndStartsNothing : Obligations.IllegalWordIsRecordedAndStartsNothing := by
  intro s v why hp hd
  have h := busAccess_writeOf .cmd v s nofun
  rwa [writeEffect_cmd_illegal v why _ hp hd] at h

/-- A write to CMD, KEY, STATE or RKIN while a command is in flight is a violation and nothing else. -/
theorem writeEffect_discarded (g : Reg) (v : Word) (r : Regs) (c : Instr) (hp : r.phase = .busy c)
    (hg : g = .cmd ∨ (∃ k, g = .key k) ∨ (∃ k, g = .state k) ∨ ∃ k, g = .rkin k) :
    writeEffect g v r = raiseCmdError .busyViolation r := by
  have hb := (isBusy_eq_true_iff r).mpr ⟨c, hp⟩
  obtain rfl | ⟨k, rfl⟩ | ⟨k, rfl⟩ | ⟨k, rfl⟩ := hg <;> simp [writeEffect, guardBusy, hb]

theorem busAccess_writeOf_discarded (g : Reg) (v : Word) (s : State) (c : Instr)
    (hp : s.phase = .busy c)
    (hg : g = .cmd ∨ (∃ k, g = .key k) ∨ (∃ k, g = .state k) ∨ ∃ k, g = .rkin k) :
    busAccess (writeOf (offsetOf g) v) s =
      .next { s with
        err := true, errCode := if s.err then s.errCode else 0x2#4, log := .ok :: s.log } := by
  have h := busAccess_writeOf g v s (by rintro i rfl; simp at hg)
  rwa [writeEffect_discarded g v _ c hp hg] at h

/-- Settles O9: CMD is one of the registers whose writes are discarded. -/
theorem commandWriteWhileBusyIsDiscarded : Obligations.CommandWriteWhileBusyIsDiscarded :=
  fun s v c hp => busAccess_writeOf_discarded .cmd v s c hp (.inl rfl)

/-- Settles O31: the three offsets are those of KEYk, STATEk and RKINk, whose writes are discarded. -/
theorem operandWritesWhileBusyAreDiscarded : Obligations.OperandWritesWhileBusyAreDiscarded := by
  intro s v k c hp first hfirst
  simp only [List.mem_cons, List.not_mem_nil, or_false] at hfirst
  obtain rfl | rfl | rfl := hfirst
  · exact busAccess_writeOf_discarded (.key k) v s c hp (by simp)
  · exact busAccess_writeOf_discarded (.state k) v s c hp (by simp)
  · exact busAccess_writeOf_discarded (.rkin k) v s c hp (by simp)

/-! Reads of the write set (spec/40_command_execution.md R108). -/

theorem busAccess_read_any (g : Reg) (s : State) (h : readsAny g s.toRegs = true) :
    busAccess (readOf (offsetOf g)) s =
      .next { s with log := .data (Config.anyRead s.draws) :: s.log, draws := s.draws + 1 } := by
  rw [readOf, busAccess_read, readReg, if_pos h]
  rfl

theorem writesState_of_ne_expandKey (c : Instr) (h : c ≠ .expandKey) : writesState c = true := by
  cases c with
  | expandKey => contradiction
  | _ => rfl

/-- Settles O27: STATE and RK are then in the write set, and a read of the write set is a draw. -/
theorem readsOfTheWriteSetAreFree : Obligations.ReadsOfTheWriteSetAreFree := by
  refine fun s c hp => ⟨fun k hc => busAccess_read_any (.state k) s ?_,
    fun k hc => busAccess_read_any (.rk k) s ?_⟩
  · rw [readsAny, stateInWriteSet, hp]
    exact writesState_of_ne_expandKey c hc
  · rw [readsAny, scheduleInWriteSet, hp]
    exact writesSchedule_of_mem c hc

/-! A command in flight keeps its operands until it completes (spec/40_command_execution.md R105, R107). -/

/-- From `r` to `r'` command `c` stays in flight, with KEY, STATE, RKIN, RK and RKV as they were. -/
structure HeldInFlight (c : Instr) (r r' : Regs) : Prop where
  phase : r'.phase = .busy c
  key : r'.key = r.key
  state : r'.state = r.state
  rkin : r'.rkin = r.rkin
  rk : r'.rk = r.rk
  rkv : r'.rkv = r.rkv

theorem HeldInFlight.of_eq {c : Instr} {r r' : Regs} (hp : r.phase = .busy c) (h : r' = r) :
    HeldInFlight c r r' := by
  subst h
  exact ⟨hp, rfl, rfl, rfl, rfl, rfl⟩

theorem HeldInFlight.trans {c : Instr} {r r' r'' : Regs} (h : HeldInFlight c r r')
    (h' : HeldInFlight c r' r'') : HeldInFlight c r r'' :=
  ⟨h'.phase, h'.key.trans h.key, h'.state.trans h.state, h'.rkin.trans h.rkin, h'.rk.trans h.rk,
    h'.rkv.trans h.rkv⟩

theorem heldInFlight_writeEffect (g : Reg) (v : Word) (r : Regs) (c : Instr) (hp : r.phase = .busy c) :
    HeldInFlight c r (writeEffect g v r) := by
  obtain ⟨hphase, hkey, hstate, hrkin, hrk, hrkv⟩ := writeEffect_inFlight g v r c hp
  exact ⟨hphase, hkey, hstate, hrkin, hrk, hrkv⟩

/-- A command reads nothing but KEY, STATE and RKIN, so its effect is that on the operands it was given. -/
theorem HeldInFlight.commandEffect_state {c : Instr} {r r' : Regs} (h : HeldInFlight c r r') :
    (commandEffect c r').state = (commandEffect c r).state := by
  cases c <;> simp [commandEffect, h.key, h.state, h.rkin]

/-- A move of the core with a command in flight leaves it in flight or completes it. -/
theorem coreMove_inFlight (s : State) (r' : Regs) (c : Instr) (hp : s.phase = .busy c)
    (h : coreMove s r') :
    HeldInFlight c s.toRegs r' ∨ r' = completeFlags (commandEffect c s.toRegs) := by
  obtain h | ⟨g, v, -, rfl⟩ | ⟨-, d, hd, rfl⟩ := h
  · exact .inl (.of_eq hp h)
  · exact .inl (heldInFlight_writeEffect g v _ c hp)
  · obtain rfl : c = d := by simpa [hp] using hd
    exact .inr rfl

/-- Settles O45: a step out of reset is a move of the core. -/
theorem operandsHeldWhileBusy : Obligations.OperandsHeldWhileBusy := by
  intro s t c hp hst hs ht
  obtain h | h := coreMove_inFlight s _ c hp (coreMove_of_stepsTo s t ⟨hs, ht, hst⟩)
  · exact ⟨h.key, h.rkin, .inl ⟨h.phase, h.state, h.rk, h.rkv⟩⟩
  · simp [h]

/-! Any number of host turns before the engine's (spec/40_command_execution.md R105, spec/20_memory.md R67). -/

/-- No line of the host's program is an access of the reserved size, the one that stops (log entry 4). -/
def NoReservedSize (host : List HostOp) : Prop :=
  ∀ op ∈ host, ∀ a, op = .access a → a.size ≠ .reserved

theorem noReservedSize_cons_iff (op : HostOp) (rest : List HostOp) :
    NoReservedSize (op :: rest) ↔ (∀ a, op = .access a → a.size ≠ .reserved) ∧ NoReservedSize rest :=
  List.forall_mem_cons

theorem noReservedSize_repeatWait (s : State) (h : NoReservedSize s.host) :
    NoReservedSize (repeatWait s).host := by
  unfold repeatWait
  split
  · exact (noReservedSize_cons_iff _ _).mpr ⟨nofun, h⟩
  · exact h

theorem repeatWait_sched (s : State) : (repeatWait s).sched = s.sched := by
  unfold repeatWait
  split <;> rfl

theorem noReservedSize_thenWrite (dst : BitVec 12) (s : State) (h : NoReservedSize s.host) :
    NoReservedSize (thenWrite dst s).host :=
  (noReservedSize_cons_iff _ _).mpr ⟨fun a ha => by cases ha; simp [writeOf], h⟩

theorem busAccess_answers_frame (a : Access) (s : State) (ha : a.size ≠ .reserved) :
    ∃ t, busAccess a s = .next t ∧ t.host = s.host ∧ t.sched = s.sched := by
  obtain ⟨t, ht⟩ := busAccess_answers a s ha
  obtain ⟨-, hhost, hsched, -⟩ := busAccess_regs a s t ht
  exact ⟨t, ht, hhost, hsched⟩

/-- With no such access the host's turn answers, and the lines it leaves have none either. -/
theorem hostTurn_answers (s : State) (h : NoReservedSize s.host) :
    ∃ t, hostTurn s = .next t ∧ t.sched = s.sched ∧ NoReservedSize t.host := by
  unfold hostTurn
  split
  · exact ⟨s, rfl, rfl, h⟩
  · next a rest hs =>
    obtain ⟨ha, hr⟩ := (noReservedSize_cons_iff _ _).mp (hs ▸ h)
    obtain ⟨u, hu, hhost, hsched⟩ := busAccess_answers_frame a { s with host := rest } (ha a rfl)
    exact ⟨u, hu, hsched, hhost ▸ hr⟩
  · next rest hs =>
    obtain ⟨-, hr⟩ := (noReservedSize_cons_iff _ _).mp (hs ▸ h)
    obtain ⟨u, hu, hhost, hsched⟩ :=
      busAccess_answers_frame (readOf 0x008#12) { s with host := rest } nofun
    exact ⟨repeatWait u, by rw [hu]; rfl, (repeatWait_sched u).trans hsched,
      noReservedSize_repeatWait u (hhost ▸ hr)⟩
  · next src dst rest hs =>
    obtain ⟨-, hr⟩ := (noReservedSize_cons_iff _ _).mp (hs ▸ h)
    obtain ⟨u, hu, hhost, hsched⟩ :=
      busAccess_answers_frame (readOf src) { s with host := rest } nofun
    exact ⟨thenWrite dst u, by rw [hu]; rfl, hsched, noReservedSize_thenWrite dst u (hhost ▸ hr)⟩

theorem heldInFlight_hostTurn (s t : State) (c : Instr) (h : hostTurn s = .next t)
    (hp : s.phase = .busy c) : HeldInFlight c s.toRegs t.toRegs := by
  obtain ⟨-, h | ⟨g, v, -, h⟩⟩ := hostTurn_core s t h
  · exact .of_eq hp h
  · exact h ▸ heldInFlight_writeEffect g v _ c hp

/-- Host turns leave the command in flight with its operands, by induction on them. -/
theorem run_hostTurns (n : Nat) (s : State) (c : Instr) (ts : List Turn) (hn : s.rstN = true)
    (hp : s.phase = .busy c) (hs : s.sched = List.replicate n .host ++ ts)
    (hh : NoReservedSize s.host) :
    ∃ t : State, Host.Core.run core (n + 1) s = Host.Core.run core 1 t ∧
      HeldInFlight c s.toRegs t.toRegs ∧ t.rstN = true ∧ t.sched = ts := by
  induction n generalizing s with
  | zero => exact ⟨s, rfl, .of_eq hp rfl, hn, hs⟩
  | succ n ih =>
    rw [List.replicate_succ, List.cons_append] at hs
    obtain ⟨u, hu, hus, huh⟩ := hostTurn_answers { s with sched := List.replicate n .host ++ ts } hh
    have hstep : step s = .next u := by
      rw [step_cons s .host _ hs, takeTurn, reqReady, if_pos hn]
      exact hu
    have hheld := heldInFlight_hostTurn _ u c hu hp
    have hun : u.rstN = true := (hostTurn_core _ u hu).1.trans hn
    obtain ⟨t, hrun, hrest, ht⟩ := ih u hun hheld.phase hus huh
    exact ⟨t, (run_succ (n + 1) s u hstep).trans hrun, hheld.trans hrest, ht⟩

/-- Settles O49: the host's turns leave what the command reads, so its completion is the one at once. -/
theorem acceptedCommandCompletesUnderAnyHostAccesses :
    Obligations.AcceptedCommandCompletesUnderAnyHostAccesses := by
  intro n s c ts hn hp hs hh
  obtain ⟨t, hrun, hheld, htn, hts⟩ := run_hostTurns n s c (.engine :: ts) hn hp hs hh
  have hstep := (engineTurnCompletesCommand t c ts htn hheld.phase).1 hts
  rw [exec_eq, commandEvent_inFlight c _ _ hheld.phase] at hstep
  refine ⟨_, _, hrun.trans (run_succ 0 t _ hstep), exec_eq c s, rfl, rfl, ?_⟩
  rw [commandEvent_inFlight c _ _ hp]
  simp [hheld.commandEffect_state, hheld.key, hheld.rkin, hheld.rk, hheld.rkv]

end Sys2Proof.Machine

namespace Sys2Proof.Machine

/-! Multiplication in GF(2^8) (spec/41_datapath_primitives.md R120 to R124). The loop of `gmul` uses its first
factor through `xor` and `xtime` alone, so every map that respects both passes through the loop; the laws of
the product are that one fact at three maps. -/

theorem xtime_eq_shift_xor (a : Byte) : xtime a = (a <<< 1) ^^^ bif a.getLsbD 7 then 0x1B#8 else 0#8 := by
  rw [xtime]
  cases a.getLsbD 7 <;> simp

theorem xtime_xor (a b : Byte) : xtime (a ^^^ b) = xtime a ^^^ xtime b := by
  have hreduce : ∀ x y : Bool, (bif x ^^ y then 0x1B#8 else 0#8) =
      (bif x then 0x1B#8 else 0#8) ^^^ bif y then 0x1B#8 else 0#8 := by decide
  simp only [xtime_eq_shift_xor, BitVec.getLsbD_xor, BitVec.shiftLeft_xor_distrib, hreduce]
  ac_rfl

/-- A turn of the loop, on the xor of two running pairs, is the xor of the two turns. -/
theorem gmulTurn_xor (c : Byte) (pa qb : Byte × Byte) (k : Nat) :
    gmulTurn c (pa.1 ^^^ qb.1, pa.2 ^^^ qb.2) k =
      ((gmulTurn c pa k).1 ^^^ (gmulTurn c qb k).1, (gmulTurn c pa k).2 ^^^ (gmulTurn c qb k).2) := by
  unfold gmulTurn
  rw [xtime_xor]
  split
  · simp only [Prod.mk.injEq, and_true]
    ac_rfl
  · rfl

theorem gmul_xor_left (a b c : Byte) : gmul (a ^^^ b) c = gmul a c ^^^ gmul b c := by
  have hfold := List.foldl_hom₂ [0, 1, 2, 3, 4, 5, 6, 7]
    (fun pa qb : Byte × Byte => (pa.1 ^^^ qb.1, pa.2 ^^^ qb.2)) (gmulTurn c) (gmulTurn c) (gmulTurn c)
    (0#8, a) (0#8, b) fun pa qb k => (gmulTurn_xor c pa qb k).symm
  rw [BitVec.xor_zero] at hfold
  exact congrArg Prod.fst hfold

/-- A map of the field that respects addition and doubling. -/
structure IsFieldLinear (f : Byte → Byte) : Prop where
  xor : ∀ a b, f (a ^^^ b) = f a ^^^ f b
  xtime : ∀ a, f (xtime a) = Machine.xtime (f a)

theorem IsFieldLinear.zero {f : Byte → Byte} (hf : IsFieldLinear f) : f 0#8 = 0#8 := by
  simpa using hf.xor 0#8 0#8

/-- Such a map commutes with every turn of the loop, and so with the product. -/
theorem IsFieldLinear.map_gmul {f : Byte → Byte} (hf : IsFieldLinear f) (a b : Byte) :
    gmul (f a) b = f (gmul a b) := by
  have hturn : ∀ (pa : Byte × Byte) (k : Nat), gmulTurn b (pa.map f f) k = (gmulTurn b pa k).map f f := by
    intro pa k
    unfold gmulTurn
    split <;> simp [hf.xor, hf.xtime]
  have hfold := List.foldl_hom (Prod.map f f) (init := (0#8, a)) (l := [0, 1, 2, 3, 4, 5, 6, 7]) hturn
  rw [Prod.map_apply, hf.zero] at hfold
  exact congrArg Prod.fst hfold

theorem isFieldLinear_xtime : IsFieldLinear xtime := ⟨xtime_xor, fun _ => rfl⟩

theorem isFieldLinear_gmul_left (b : Byte) : IsFieldLinear fun a => gmul a b :=
  ⟨fun a a' => gmul_xor_left a a' b, fun a => isFieldLinear_xtime.map_gmul a b⟩

@[simp] theorem gmul_zero_left (x : Byte) : gmul 0#8 x = 0#8 := (isFieldLinear_gmul_left x).zero

/-- The doublings of 1 are the eight single bits, so the loop puts x together again. -/
@[simp] theorem gmul_one_left : ∀ x : Byte, gmul 1#8 x = x := by decide +kernel

theorem gmul_two_left (x : Byte) : gmul 2#8 x = xtime x :=
  (isFieldLinear_xtime.map_gmul 1#8 x).trans (congrArg xtime (gmul_one_left x))

theorem gmul_comm (a b : Byte) : gmul a b = gmul b a := by
  simpa using ((isFieldLinear_gmul_left b).map_gmul 1#8 a).symm

@[simp] theorem gmul_one_right (x : Byte) : gmul x 1#8 = x := (gmul_comm x 1#8).trans (gmul_one_left x)

theorem isFieldLinear_gmul_right (a : Byte) : IsFieldLinear (gmul a) := by
  rw [funext (gmul_comm a)]
  exact isFieldLinear_gmul_left a

theorem gmul_assoc (a b c : Byte) : gmul (gmul a b) c = gmul a (gmul b c) :=
  (isFieldLinear_gmul_right a).map_gmul b c

/-- Settles O51: the laws of the product follow from what its loop does with field-linear maps. -/
theorem fieldDoublingAndProductLaws : Obligations.FieldDoublingAndProductLaws :=
  ⟨gmul_comm, gmul_assoc, fun a => (isFieldLinear_gmul_right a).xor,
    fun x => ⟨gmul_zero_left x, gmul_one_left x, gmul_two_left x⟩, by decide +kernel⟩

/-! Powers (spec/41_datapath_primitives.md R124). Raising to the power 256 is squaring eight times, so it
respects sums and products; it fixes 2, so it is field-linear, and it fixes 1, so it is the identity. -/

theorem gpow_add (a : Byte) (m n : Nat) : gpow a (m + n) = gmul (gpow a m) (gpow a n) := by
  induction m with
  | zero => simp [gpow]
  | succ m ih => rw [Nat.add_right_comm, gpow, ih, gpow, gmul_assoc]

theorem gmul_gmul_gmul_comm (a b c d : Byte) :
    gmul (gmul a b) (gmul c d) = gmul (gmul a c) (gmul b d) := by
  rw [gmul_assoc, ← gmul_assoc b, gmul_comm b c, gmul_assoc c, gmul_assoc]

theorem gpow_gmul (a b : Byte) (n : Nat) : gpow (gmul a b) n = gmul (gpow a n) (gpow b n) := by
  induction n with
  | zero => simp [gpow]
  | succ n ih => rw [gpow, ih, gmul_gmul_gmul_comm, gpow, gpow]

theorem gsquare_eq_gpow (a : Byte) : gsquare a = gpow a 2 := by
  simp [gsquare, gpow]

theorem gsquare_gpow (a : Byte) (n : Nat) : gsquare (gpow a n) = gpow a (n + n) := (gpow_add a n n).symm

/-- The two mixed products of the square of a sum cancel: the field has characteristic 2. -/
theorem gsquare_xor (a b : Byte) : gsquare (a ^^^ b) = gsquare a ^^^ gsquare b := by
  simp only [gsquare, gmul_xor_left, (isFieldLinear_gmul_right _).xor]
  rw [gmul_comm b a, BitVec.xor_assoc, ← BitVec.xor_assoc (gmul a b), BitVec.xor_self, BitVec.zero_xor]

theorem gpow_two_pow_xor (a b : Byte) (n : Nat) :
    gpow (a ^^^ b) (2 ^ n) = gpow a (2 ^ n) ^^^ gpow b (2 ^ n) := by
  induction n with
  | zero => simp [gpow]
  | succ n ih => rw [Nat.pow_succ, Nat.mul_two, ← gsquare_gpow, ih, gsquare_xor, gsquare_gpow, gsquare_gpow]

theorem isFieldLinear_gpow_256 : IsFieldLinear fun a => gpow a 256 where
  xor a b := gpow_two_pow_xor a b 8
  xtime a := by
    have h2 : gpow 2#8 256 = 2#8 := by decide +kernel
    rw [← gmul_two_left, gpow_gmul, h2, gmul_two_left]

theorem gpow_256 (a : Byte) : gpow a 256 = a := by
  have h1 : gpow 1#8 256 = 1#8 := by decide +kernel
  simpa [h1] using (isFieldLinear_gpow_256.map_gmul 1#8 a).symm

/-! The inverse (spec/41_datapath_primitives.md R124). That a byte other than 0 has one is read off the S-box
table, whose entry at a names it; that it is a^254 follows from a^256 = a. -/

/-- The inverse of the affine step of R125. -/
def unaffine (s : Byte) : Byte := s.rotateLeft 1 ^^^ s.rotateLeft 3 ^^^ s.rotateLeft 6 ^^^ 0x05#8

theorem affine_unaffine : ∀ s : Byte, affine (unaffine s) = s := by decide +kernel

theorem gmul_unaffine_sbox : ∀ a : Byte, a ≠ 0 → gmul a (unaffine (sbox a)) = 1#8 := by decide +kernel

theorem ginverse_eq_gpow (a : Byte) : ginverse a = gpow a 254 := by
  simp only [ginverse, gsquare_eq_gpow a, gsquare_gpow, ← gpow_add, Nat.reduceAdd]

theorem eq_of_gmul_eq_one (a b c : Byte) (hb : gmul a b = 1#8) (hc : gmul a c = 1#8) : b = c :=
  calc b = gmul (gmul a c) b := by rw [hc, gmul_one_left]
    _ = gmul c (gmul a b) := by rw [gmul_comm a, gmul_assoc]
    _ = c := by rw [hb, gmul_one_right]

theorem gmul_ginverse (a : Byte) (ha : a ≠ 0) : gmul a (ginverse a) = 1#8 := by
  have hinv : gmul (unaffine (sbox a)) a = 1#8 := (gmul_comm _ _).trans (gmul_unaffine_sbox a ha)
  calc gmul a (ginverse a) = gpow a 255 := by rw [ginverse_eq_gpow, ← gpow]
    _ = gmul (gmul (unaffine (sbox a)) a) (gpow a 255) := by rw [hinv, gmul_one_left]
    _ = gmul (unaffine (sbox a)) (gpow a 256) := by rw [gmul_assoc, ← gpow]
    _ = 1#8 := by rw [gpow_256, hinv]

/-- Settles O52: cancelling one factor of a^256 = a gives a * a^254 = 1, and associativity makes an inverse
unique. -/
theorem fieldInverse : Obligations.FieldInverse :=
  ⟨fun a ha => ⟨gmul_ginverse a ha, fun b hb => eq_of_gmul_eq_one a b _ hb (gmul_ginverse a ha)⟩,
    ginverse_eq_gpow, by decide +kernel, by decide +kernel⟩

/-! The tables (spec/41_datapath_primitives.md R125 to R128): constants, so their entries are compared by
evaluation at the 256 bytes. -/

theorem sbox_eq_affine_ginverse (b : Byte) : sbox b = affine (ginverse b) := by
  by_cases hb : b = 0
  · subst hb
    decide +kernel
  · rw [← eq_of_gmul_eq_one b _ _ (gmul_unaffine_sbox b hb) (gmul_ginverse b hb), affine_unaffine]

theorem invSbox_sbox : ∀ b : Byte, invSbox (sbox b) = b := by decide +kernel

theorem sbox_invSbox : ∀ b : Byte, sbox (invSbox b) = b := by decide +kernel

theorem sbox_ne_self : ∀ b : Byte, sbox b ≠ b := by decide +kernel

theorem sbox_ne_complement : ∀ b : Byte, sbox b ≠ b ^^^ 0xFF#8 := by decide +kernel

/-- Bit i of a byte rotated left by r is the bit r places below, round the end. -/
theorem getLsbD_rotateLeft_byte (s : Byte) (i r : Nat) (hi : i < 8) (hr : r < 8) :
    (s.rotateLeft r).getLsbD i = s.getLsbD ((i + (8 - r)) % 8) := by
  rw [BitVec.getLsbD_rotateLeft, Nat.mod_eq_of_lt hr]
  by_cases h : i < r
  · rw [decide_eq_true h, cond_true, Nat.mod_eq_of_lt (by omega), Nat.add_comm]
  · rw [decide_eq_false h, cond_false, decide_eq_true hi, Bool.true_and]
    congr 1
    omega

theorem affine_getLsbD (s : Byte) (i : Nat) (hi : i < 8) :
    (affine s).getLsbD i = (s.getLsbD i ^^ s.getLsbD ((i + 4) % 8) ^^ s.getLsbD ((i + 5) % 8) ^^
        s.getLsbD ((i + 6) % 8) ^^ s.getLsbD ((i + 7) % 8) ^^ (0x63#8).getLsbD i) := by
  have hrot := getLsbD_rotateLeft_byte s i
  simp only [affine, BitVec.getLsbD_xor, hrot 1 hi (by decide), hrot 2 hi (by decide),
    hrot 3 hi (by decide), hrot 4 hi (by decide), Nat.reduceSub]
  simp only [Bool.xor_assoc, Bool.xor_comm, Bool.xor_left_comm]

/-- Settles O53: `unaffine` of an entry is an inverse of its index, so it is `ginverse`; the affine bits go by
where a rotation moves each bit. -/
theorem sboxTableIsTheAffineInverse : Obligations.SboxTableIsTheAffineInverse :=
  ⟨sbox_eq_affine_ginverse, fun s i => affine_getLsbD s i i.isLt⟩

/-- Settles O54: the entries by evaluation; a map with a left inverse takes distinct values. -/
theorem sboxTablesArePermutations : Obligations.SboxTablesArePermutations :=
  ⟨invSbox_sbox, sbox_invSbox, fun _ _ h => Function.LeftInverse.injective invSbox_sbox h,
    sbox_ne_self, sbox_ne_complement⟩

/-! The round constants and the word functions (spec/41_datapath_primitives.md R129 to R131). -/

theorem rcon_succ (j : Nat) (h1 : 1 ≤ j) (h9 : j ≤ 9) : rcon (j + 1) = xtime (rcon j) := by
  interval_cases j <;> decide

theorem rotWord_append (a0 a1 a2 a3 : Byte) : rotWord (a0 ++ a1 ++ a2 ++ a3) = a1 ++ a2 ++ a3 ++ a0 := by
  ext i hi
  simp only [rotWord, BitVec.getElem_rotateLeft]
  grind

theorem subWord_append (a0 a1 a2 a3 : Byte) :
    subWord (a0 ++ a1 ++ a2 ++ a3) = sbox a0 ++ sbox a1 ++ sbox a2 ++ sbox a3 := by
  obtain ⟨h0, h1, h2, h3⟩ := wordByte_wordOfBytes a0 a1 a2 a3
  rw [← wordOfBytes, subWord, h0, h1, h2, h3, wordOfBytes]

/-- Settles O55: the round constants one by one, the word functions on the four bytes of any word. -/
theorem roundConstantsAndWordFunctions : Obligations.RoundConstantsAndWordFunctions :=
  ⟨rfl, rcon_succ, rotWord_append, subWord_append⟩

end Sys2Proof.Machine

namespace Sys2Proof.Machine

/-! The completion of a command, as `exec` answers it (spec/40_command_execution.md R104). -/

theorem exec_inFlight (i : Instr) (s : State) (hp : s.phase = .busy i) :
    exec i s = .next { s with toRegs := completeFlags (commandEffect i s.toRegs) } := by
  rw [exec_eq, commandEvent_inFlight i _ _ hp]

/-! The bytes after each round transform, by index or by row r and column c (spec/42_round_transforms.md R141 to
R147; spec/00_scope.md R13). -/

theorem blockByte_subBytes (b : Block) (i : Nat) (hi : i < 16) :
    blockByte (subBytes b) i = sbox (blockByte b i) := blockByte_blockOfBytes _ i hi

theorem blockByte_invSubBytes (b : Block) (i : Nat) (hi : i < 16) :
    blockByte (invSubBytes b) i = invSbox (blockByte b i) := blockByte_blockOfBytes _ i hi

theorem blockByte_addRoundKey (b k : Block) (i : Nat) (hi : i < 16) :
    blockByte (addRoundKey b k) i = blockByte b i ^^^ blockByte k i := blockByte_blockOfBytes _ i hi

/-- The row and the column of the byte at row r, column c. -/
theorem row_and_column (r c : Nat) (hr : r < 4) : (r + 4 * c) % 4 = r ∧ (r + 4 * c) / 4 = c := by omega

theorem blockByte_shiftRows (b : Block) (r c : Nat) (hr : r < 4) (hc : c < 4) :
    blockByte (shiftRows b) (r + 4 * c) = blockByte b (r + 4 * ((c + r) % 4)) := by
  rw [shiftRows, blockByte_blockOfBytes _ _ (by omega), (row_and_column r c hr).1,
    (row_and_column r c hr).2]

theorem blockByte_invShiftRows (b : Block) (r c : Nat) (hr : r < 4) (hc : c < 4) :
    blockByte (invShiftRows b) (r + 4 * c) = blockByte b (r + 4 * ((c + (4 - r)) % 4)) := by
  rw [invShiftRows, blockByte_blockOfBytes _ _ (by omega), (row_and_column r c hr).1,
    (row_and_column r c hr).2]

theorem blockByte_mulColumns (m0 m1 m2 m3 : Byte) (b : Block) (r c : Nat) (hr : r < 4) (hc : c < 4) :
    blockByte (mulColumns m0 m1 m2 m3 b) (r + 4 * c) =
      gmul m0 (blockByte b (r + 4 * c)) ^^^ gmul m1 (blockByte b ((r + 1) % 4 + 4 * c)) ^^^
        gmul m2 (blockByte b ((r + 2) % 4 + 4 * c)) ^^^ gmul m3 (blockByte b ((r + 3) % 4 + 4 * c)) := by
  rw [mulColumns, blockByte_blockOfBytes _ _ (by omega)]
  simp only [(row_and_column r c hr).1, (row_and_column r c hr).2, Nat.add_zero, Nat.mod_eq_of_lt hr,
    Nat.add_comm (4 * c)]

/-- The four bytes of a column of the product, in terms of the four bytes of the column: the matrix of rows
{m0, m1, m2, m3} rotated right (spec/42_round_transforms.md R145, R146). -/
theorem mulColumns_column (m0 m1 m2 m3 : Byte) (b : Block) (c : Nat) (hc : c < 4) (a0 a1 a2 a3 : Byte)
    (h0 : a0 = blockByte b (4 * c)) (h1 : a1 = blockByte b (4 * c + 1))
    (h2 : a2 = blockByte b (4 * c + 2)) (h3 : a3 = blockByte b (4 * c + 3)) :
    blockByte (mulColumns m0 m1 m2 m3 b) (4 * c) =
        gmul m0 a0 ^^^ gmul m1 a1 ^^^ gmul m2 a2 ^^^ gmul m3 a3 ∧
      blockByte (mulColumns m0 m1 m2 m3 b) (4 * c + 1) =
        gmul m3 a0 ^^^ gmul m0 a1 ^^^ gmul m1 a2 ^^^ gmul m2 a3 ∧
      blockByte (mulColumns m0 m1 m2 m3 b) (4 * c + 2) =
        gmul m2 a0 ^^^ gmul m3 a1 ^^^ gmul m0 a2 ^^^ gmul m1 a3 ∧
      blockByte (mulColumns m0 m1 m2 m3 b) (4 * c + 3) =
        gmul m1 a0 ^^^ gmul m2 a1 ^^^ gmul m3 a2 ^^^ gmul m0 a3 := by
  have row := fun r hr => blockByte_mulColumns m0 m1 m2 m3 b r c hr hc
  have row0 := row 0 (by decide)
  have row1 := row 1 (by decide)
  have row2 := row 2 (by decide)
  have row3 := row 3 (by decide)
  simp only [Nat.reduceAdd, Nat.reduceMod, Nat.add_zero, Nat.add_comm _ (4 * c), ← h0, ← h1, ← h2, ← h3]
    at row0 row1 row2 row3
  rw [row0, row1, row2, row3]
  exact ⟨rfl, by ac_rfl, by ac_rfl, by ac_rfl⟩

/-! What each of the commands on bytes, rows and columns leaves (spec/42_round_transforms.md R140 to R147). -/

/-- Settles O11: the completion is `exec_inFlight`, the bytes are `blockByte_subBytes`. -/
theorem subBytesResult : Obligations.SubBytesResult := fun s hp =>
  ⟨subBytes s.state, exec_inFlight .subBytes s hp, blockByte_subBytes s.state⟩

/-- Settles O12: the completion is `exec_inFlight`, the bytes are `blockByte_invSubBytes`. -/
theorem invSubBytesResult : Obligations.InvSubBytesResult := fun s hp =>
  ⟨invSubBytes s.state, exec_inFlight .invSubBytes s hp, blockByte_invSubBytes s.state⟩

/-- Settles O13: the completion is `exec_inFlight`, the bytes are `blockByte_shiftRows`. -/
theorem shiftRowsResult : Obligations.ShiftRowsResult := fun s hp =>
  ⟨shiftRows s.state, exec_inFlight .shiftRows s hp, fun r hr c hc =>
    blockByte_shiftRows s.state r c hr hc⟩

/-- Settles O14: the byte read at column `(c + r) mod 4` comes from r columns before, which is c. -/
theorem invShiftRowsResult : Obligations.InvShiftRowsResult := by
  refine fun s hp => ⟨invShiftRows s.state, exec_inFlight .invShiftRows s hp, fun r hr c hc => ?_⟩
  have hcol : ((c + r) % 4 + (4 - r)) % 4 = c := by omega
  rw [blockByte_invShiftRows s.state r _ hr (by omega), hcol]

/-- Settles O15: the column is `mulColumns_column`, where the coefficient 1 drops out. -/
theorem mixColumnsResult : Obligations.MixColumnsResult := by
  refine fun s hp => ⟨mixColumns s.state, exec_inFlight .mixColumns s hp, ?_⟩
  intro c hc a0 a1 a2 a3 h0 h1 h2 h3
  have hcolumn := mulColumns_column 0x02#8 0x03#8 0x01#8 0x01#8 s.state c hc a0 a1 a2 a3 h0 h1 h2 h3
  simp only [gmul_one_left] at hcolumn
  exact hcolumn

/-- Settles O16: the column is `mulColumns_column`. -/
theorem invMixColumnsResult : Obligations.InvMixColumnsResult := fun s hp =>
  ⟨invMixColumns s.state, exec_inFlight .invMixColumns s hp,
    mulColumns_column 0x0E#8 0x0B#8 0x0D#8 0x09#8 s.state⟩

/-! AddRoundKey word by word (spec/42_round_transforms.md R147). -/

/-- The exclusive or of two groups, word by word. -/
def xorWords (a b : Block) : Block := ⟨a.w0 ^^^ b.w0, a.w1 ^^^ b.w1, a.w2 ^^^ b.w2, a.w3 ^^^ b.w3⟩

theorem blockByte_xorWords (a b : Block) (i : Nat) :
    blockByte (xorWords a b) i = blockByte a i ^^^ blockByte b i := by
  have hword (k : Nat) : blockWord (xorWords a b) k = blockWord a k ^^^ blockWord b k := by
    unfold blockWord
    split <;> rfl
  simp only [blockByte, hword, wordByte, BitVec.extractLsb'_xor]

theorem addRoundKey_eq_xorWords (b k : Block) : addRoundKey b k = xorWords b k :=
  block_eq_of_bytes _ _ fun i hi => by rw [blockByte_addRoundKey b k i hi, blockByte_xorWords]

/-- Settles O17: the bytes are `blockByte_addRoundKey`, the words `addRoundKey_eq_xorWords`. -/
theorem addRoundKeyResult : Obligations.AddRoundKeyResult := fun s hp =>
  ⟨addRoundKey s.state s.rkin, exec_inFlight .addRoundKey s hp, blockByte_addRoundKey s.state s.rkin,
    addRoundKey_eq_xorWords s.state s.rkin⟩

/-! Each transform is undone by its inverse (spec/42_round_transforms.md R148). -/

@[simp] theorem invSubBytes_subBytes (b : Block) : invSubBytes (subBytes b) = b :=
  block_eq_of_bytes _ _ fun i hi => by
    rw [blockByte_invSubBytes _ i hi, blockByte_subBytes b i hi, invSbox_sbox]

@[simp] theorem subBytes_invSubBytes (b : Block) : subBytes (invSubBytes b) = b :=
  block_eq_of_bytes _ _ fun i hi => by
    rw [blockByte_subBytes _ i hi, blockByte_invSubBytes b i hi, sbox_invSbox]

/-- Two blocks with the same byte at every row and column are equal. -/
theorem block_eq_of_entries (a b : Block)
    (h : ∀ r < 4, ∀ c < 4, blockByte a (r + 4 * c) = blockByte b (r + 4 * c)) : a = b := by
  refine block_eq_of_bytes a b fun i hi => ?_
  have hentry := h (i % 4) (by omega) (i / 4) (by omega)
  rwa [Nat.mod_add_div] at hentry

@[simp] theorem invShiftRows_shiftRows (b : Block) : invShiftRows (shiftRows b) = b := by
  refine block_eq_of_entries _ _ fun r hr c hc => ?_
  have hcol : ((c + (4 - r)) % 4 + r) % 4 = c := by omega
  rw [blockByte_invShiftRows _ r c hr hc, blockByte_shiftRows b r _ hr (by omega), hcol]

@[simp] theorem shiftRows_invShiftRows (b : Block) : shiftRows (invShiftRows b) = b := by
  refine block_eq_of_entries _ _ fun r hr c hc => ?_
  have hcol : ((c + r) % 4 + (4 - r)) % 4 = c := by omega
  rw [blockByte_shiftRows _ r c hr hc, blockByte_invShiftRows b r _ hr (by omega), hcol]

/-- Moving bytes about and replacing each by a function of its value can be done in either order. -/
theorem shiftRows_subBytes (b : Block) : shiftRows (subBytes b) = subBytes (shiftRows b) := by
  refine block_eq_of_entries _ _ fun r hr c hc => ?_
  rw [blockByte_shiftRows _ r c hr hc, blockByte_subBytes b _ (by omega),
    blockByte_subBytes _ _ (by omega), blockByte_shiftRows b r c hr hc]

@[simp] theorem addRoundKey_addRoundKey (b k : Block) : addRoundKey (addRoundKey b k) k = b :=
  block_eq_of_bytes _ _ fun i hi => by
    rw [blockByte_addRoundKey _ k i hi, blockByte_addRoundKey b k i hi, BitVec.xor_assoc,
      BitVec.xor_self, BitVec.xor_zero]

/-- Circulant matrices multiply as their coefficient rows do, which are polynomials modulo x^4 + 1. -/
theorem mulColumns_mulColumns (n0 n1 n2 n3 m0 m1 m2 m3 : Byte) (b : Block) :
    mulColumns n0 n1 n2 n3 (mulColumns m0 m1 m2 m3 b) =
      mulColumns (gmul n0 m0 ^^^ gmul n1 m3 ^^^ gmul n2 m2 ^^^ gmul n3 m1)
        (gmul n0 m1 ^^^ gmul n1 m0 ^^^ gmul n2 m3 ^^^ gmul n3 m2)
        (gmul n0 m2 ^^^ gmul n1 m1 ^^^ gmul n2 m0 ^^^ gmul n3 m3)
        (gmul n0 m3 ^^^ gmul n1 m2 ^^^ gmul n2 m1 ^^^ gmul n3 m0) b := by
  refine block_eq_of_entries _ _ fun r hr c hc => ?_
  have hlt (d : Nat) : (r + d) % 4 < 4 := Nat.mod_lt _ (by decide)
  rw [blockByte_mulColumns _ _ _ _ _ r c hr hc, blockByte_mulColumns _ _ _ _ b r c hr hc,
    blockByte_mulColumns _ _ _ _ b _ c (hlt 1) hc, blockByte_mulColumns _ _ _ _ b _ c (hlt 2) hc,
    blockByte_mulColumns _ _ _ _ b _ c (hlt 3) hc, blockByte_mulColumns _ _ _ _ b r c hr hc]
  have h5 : (r + 5) % 4 = (r + 1) % 4 := Nat.add_mod_right (r + 1) 4
  have h6 : (r + 6) % 4 = (r + 2) % 4 := Nat.add_mod_right (r + 2) 4
  simp only [Nat.mod_add_mod, Nat.add_assoc, Nat.reduceAdd, Nat.add_mod_right, Nat.mod_eq_of_lt hr,
    h5, h6]
  simp only [gmul_xor_left, (isFieldLinear_gmul_right _).xor, gmul_assoc]
  ac_rfl

/-- The unit matrix. -/
theorem mulColumns_one (b : Block) : mulColumns 1#8 0#8 0#8 0#8 b = b :=
  block_eq_of_entries _ _ fun r hr c hc => by
    simp [blockByte_mulColumns _ _ _ _ b r c hr hc]

/-! The rows {14, 11, 13, 9} and {2, 3, 1, 1} multiply to {1, 0, 0, 0}: the last step of the two proofs computes
it. -/

@[simp] theorem invMixColumns_mixColumns (b : Block) : invMixColumns (mixColumns b) = b := by
  rw [invMixColumns, mixColumns, mulColumns_mulColumns]
  exact mulColumns_one b

@[simp] theorem mixColumns_invMixColumns (b : Block) : mixColumns (invMixColumns b) = b := by
  rw [invMixColumns, mixColumns, mulColumns_mulColumns]
  exact mulColumns_one b

end Sys2Proof.Machine

namespace Sys2Proof.Machine

open Sys2Proof.Safety

/-! One command after another (spec/40_command_execution.md R100; spec/42_round_transforms.md R148). -/

/-- Acceptance writes flags only, and no command's STATE depends on them. -/
@[simp] theorem commandEffect_acceptFlags_state (i c : Instr) (r : Regs) :
    (commandEffect i (acceptFlags c r)).state = (commandEffect i r).state := by
  cases i <;> rfl

/-- The state after a command issued and completed at once. -/
def afterCommand (i : Instr) (s : State) : State :=
  { s with toRegs := completeFlags (commandEffect i (acceptFlags i s.toRegs)) }

@[simp] theorem afterCommand_phase (i : Instr) (s : State) : (afterCommand i s).phase = .idle := rfl
@[simp] theorem afterCommand_key (i : Instr) (s : State) : (afterCommand i s).key = s.key := by
  simp [afterCommand]
@[simp] theorem afterCommand_rkin (i : Instr) (s : State) : (afterCommand i s).rkin = s.rkin := by
  simp [afterCommand]
@[simp] theorem afterCommand_state (i : Instr) (s : State) :
    (afterCommand i s).state = (commandEffect i s.toRegs).state := by
  simp [afterCommand]

theorem executed_idle (i : Instr) (s : State) (hp : s.phase = .idle) :
    executed i s = .next (afterCommand i s) := by
  simp only [executed, exec_idle i s hp]
  exact exec_inFlight i _ rfl

theorem inOrder_executed_pair (c d : Instr) (s : State) (hp : s.phase = .idle) :
    inOrder [executed c, executed d] s = .next (afterCommand d (afterCommand c s)) := by
  simp only [inOrder, executed_idle c s hp, executed_idle d _ (afterCommand_phase c s)]

/-- Two commands run one after the other, with steps between that leave STATE to them. -/
theorem commandRun_pair (c d : Instr) (s a b t : State) (hc : commandRun c s a)
    (hab : Relation.ReflTransGen betweenStep a b) (hd : commandRun d b t) :
    t.state = (commandEffect d b.toRegs).state ∧ b.state = (commandEffect c s.toRegs).state := by
  obtain ⟨-, hstate, -, -⟩ := commandRun_result c s a hc
  obtain ⟨-, hresult, -, -⟩ := commandRun_result d b t hd
  exact ⟨hresult, (betweenSteps_state a b hab).trans hstate⟩

/-- The seven pairs of a round transform command and its inverse (spec/42_round_transforms.md R148). -/
def inversePairs : List (Instr × Instr) :=
  [(.subBytes, .invSubBytes), (.invSubBytes, .subBytes), (.shiftRows, .invShiftRows),
    (.invShiftRows, .shiftRows), (.mixColumns, .invMixColumns), (.invMixColumns, .mixColumns),
    (.addRoundKey, .addRoundKey)]

/-- On the STATE that a command left, with the same RKIN where it is read, the inverse command gives back the
STATE before it. -/
theorem commandEffect_inverse_state (p : Instr × Instr) (hp : p ∈ inversePairs) (r r' : Regs)
    (hs : r'.state = (commandEffect p.1 r).state) (hk : p.1 = .addRoundKey → r'.rkin = r.rkin) :
    (commandEffect p.2 r').state = r.state := by
  simp only [inversePairs, List.mem_cons, List.not_mem_nil, or_false] at hp
  obtain rfl | rfl | rfl | rfl | rfl | rfl | rfl := hp <;> simp [commandEffect, hs, hk]

/-- Settles O56: the functions by their bytes; a pair of commands by what the second leaves of the first's
STATE, with any steps between (`commandRun_pair`) or none (`inOrder_executed_pair`). -/
theorem transformsAreInvertedByTheirInverses : Obligations.TransformsAreInvertedByTheirInverses := by
  refine ⟨fun b => ⟨invSubBytes_subBytes b, subBytes_invSubBytes b, invShiftRows_shiftRows b,
    shiftRows_invShiftRows b, invMixColumns_mixColumns b, mixColumns_invMixColumns b,
    shiftRows_subBytes b⟩, addRoundKey_addRoundKey, fun p hp => ⟨?_, fun s hidle => ?_⟩⟩
  · intro s a b t hfirst hbetween hrkin hsecond
    obtain ⟨ht, hb⟩ := commandRun_pair p.1 p.2 s a b t hfirst hbetween hsecond
    obtain ⟨-, -, -, ha⟩ := commandRun_result p.1 s a hfirst
    exact ht.trans (commandEffect_inverse_state p hp _ _ hb fun h => (hrkin h).trans ha)
  · refine ⟨_, inOrder_executed_pair p.1 p.2 s hidle, (afterCommand_state _ _).trans ?_⟩
    exact commandEffect_inverse_state p hp _ _ (afterCommand_state p.1 s) fun _ => afterCommand_rkin p.1 s

end Sys2Proof.Machine

namespace Sys2Proof.Machine

open Sys2Proof.Safety

/-! The words of the key schedule in order (spec/43_key_expansion.md R160). The loop puts each new word in front of
those before it, so a word's place from the front grows by one with every turn after its own. -/

theorem scheduleLatestFirst_getD_add (key : Block) (m d k : Nat) :
    (scheduleLatestFirst key (m + d)).getD (k + d) 0 = (scheduleLatestFirst key m).getD k 0 := by
  induction d with
  | zero => rfl
  | succ d ih => exact ih

/-- Word i of the schedule is already there after any number of turns m that reach it. -/
theorem expandKey_getElem (key : Block) (m i : Nat) (hm : m ≤ 40) (hi : i < m + 4) :
    (expandKey key)[i]'(by omega) = (scheduleLatestFirst key m).getD (m + 3 - i) 0 := by
  have hturns : m + (40 - m) = 40 := by omega
  have hplace : m + 3 - i + (40 - m) = 40 + 4 - 1 - i := by omega
  have hlater := scheduleLatestFirst_getD_add key m (40 - m) (m + 3 - i)
  rw [hturns, hplace] at hlater
  simp only [expandKey, Vector.getElem_mk, List.getElem_toArray, List.getElem_reverse,
    scheduleLatestFirst_length, ← hlater]
  exact List.getElem_eq_getD 0

theorem expandKey_firstWords (key : Block) :
    (expandKey key)[0] = key.w0 ∧ (expandKey key)[1] = key.w1 ∧ (expandKey key)[2] = key.w2 ∧
      (expandKey key)[3] = key.w3 :=
  have first (i : Nat) (hi : i < 4) := expandKey_getElem key 0 i (by decide) hi
  ⟨first 0 (by decide), first 1 (by decide), first 2 (by decide), first 3 (by decide)⟩

/-- Turn m of the loop adds word m + 4, out of the words m and m + 3 that the turns before left. -/
theorem expandKey_nextWord (key : Block) (m : Nat) (hm : m < 40) :
    (expandKey key)[m + 4] = nextWord (m + 4) (expandKey key)[m] (expandKey key)[m + 3] := by
  rw [expandKey_getElem key (m + 1) (m + 4) hm (by omega), expandKey_getElem key m m hm.le (by omega),
    expandKey_getElem key m (m + 3) hm.le (by omega), Nat.add_sub_cancel_left, Nat.sub_self, Nat.sub_self]
  rfl

theorem isScheduleOf_expandKey (key : Block) : isScheduleOf key (expandKey key) := by
  refine ⟨expandKey_firstWords key, fun i hi h4 => ?_⟩
  obtain ⟨m, rfl⟩ := Nat.exists_eq_add_of_le' h4
  exact expandKey_nextWord key m (by omega)

/-- Settles O18: the completion is `exec_inFlight`, the words are `isScheduleOf_expandKey`. -/
theorem expandKeyResult : Obligations.ExpandKeyResult := fun s hp =>
  ⟨expandKey s.key, exec_inFlight .expandKey s hp, isScheduleOf_expandKey s.key⟩

/-! What R162 says of any schedule of a key. -/

theorem roundKey_zero_of_isScheduleOf (key : Block) (w : Vector Word 44) (hw : isScheduleOf key w) :
    roundKey w 0 = key := by
  obtain ⟨⟨h0, h1, h2, h3⟩, -⟩ := hw
  have word (i : Nat) (hi : i < 44) : scheduleWord w i = w[i] := scheduleWord_eq_getElem w ⟨i, hi⟩
  simp [roundKey, word, h0, h1, h2, h3]

theorem getElem_eq_xor_of_isScheduleOf (key : Block) (w : Vector Word 44) (hw : isScheduleOf key w)
    (i : Nat) (hi : i < 44) (h4 : 4 ≤ i) (hmod : i % 4 ≠ 0) : w[i] = w[i - 4] ^^^ w[i - 1] := by
  obtain ⟨-, hnext⟩ := hw
  rw [hnext i hi h4, if_neg hmod]

/-- Settles O57: the schedule's first words are the key's, and off the multiples of 4 its recurrence is a plain
exclusive or; the command leaves that schedule in RK. -/
theorem expansionStartsWithTheKey : Obligations.ExpansionStartsWithTheKey :=
  ⟨fun key =>
    have hw := isScheduleOf_expandKey key
    ⟨roundKey_zero_of_isScheduleOf key _ hw, (expandKey key).size_toArray,
      getElem_eq_xor_of_isScheduleOf key _ hw⟩,
    fun s hp => ⟨_, exec_inFlight .expandKey s hp, expandKey_firstWords s.key⟩⟩

end Sys2Proof.Machine

namespace Sys2Proof.Machine

open Sys2Proof.Safety

/-! The block cipher round by round: the blocks between the rounds, whose last one the final round takes
(spec/44_block_cipher.md R170, R171). -/

/-- The block after AddRoundKey with round key 0 and the encryption rounds 1 to n. -/
def encRounds (w : Vector Word 44) (p : Block) : Nat → Block
  | 0 => addRoundKey p (roundKey w 0)
  | n + 1 => encRound (encRounds w p n) (roundKey w (n + 1))

/-- The block after AddRoundKey with round key 10 and n inverse rounds, the first with round key 9. -/
def decRounds (w : Vector Word 44) (c : Block) : Nat → Block
  | 0 => addRoundKey c (roundKey w 10)
  | n + 1 => decRound (decRounds w c n) (roundKey w (9 - n))

theorem cipher_eq_encFinal (p : Block) (w : Vector Word 44) :
    cipher p w = encFinal (encRounds w p 9) (roundKey w 10) := rfl

theorem invCipher_eq_decFinal (c : Block) (w : Vector Word 44) :
    invCipher c w = decFinal (decRounds w c 9) (roundKey w 0) := rfl

/-- The inverse round that leads down to round r is made with round key r. -/
theorem decRounds_round (w : Vector Word 44) (c : Block) (r : Nat) (hr : r ≤ 9) :
    decRounds w c (10 - r) = decRound (decRounds w c (10 - (r + 1))) (roundKey w r) := by
  have hn : 10 - r = 10 - (r + 1) + 1 := by omega
  have hkey : 9 - (10 - (r + 1)) = r := by omega
  rw [hn, decRounds, hkey]

/-- Settles O19: the completion is `exec_inFlight`, the blocks between the rounds are `encRounds`. -/
theorem encryptBlockResult : Obligations.EncryptBlockResult := by
  refine fun s hp => ⟨cipher s.state (expandKey s.key), expandKey s.key,
    encRounds (expandKey s.key) s.state, exec_inFlight .encryptBlock s hp, isScheduleOf_expandKey s.key,
    rfl, fun r h1 _ => ?_, rfl⟩
  obtain ⟨n, rfl⟩ := Nat.exists_eq_add_of_le' h1
  rfl

/-- Settles O20: the completion is `exec_inFlight`, the blocks between the rounds are `decRounds`. -/
theorem decryptBlockResult : Obligations.DecryptBlockResult := fun s hp =>
  ⟨invCipher s.state (expandKey s.key), expandKey s.key, fun r => decRounds (expandKey s.key) s.state (10 - r),
    exec_inFlight .decryptBlock s hp, isScheduleOf_expandKey s.key, rfl,
    fun r _ h9 => decRounds_round (expandKey s.key) s.state r h9, rfl⟩

/-! The two block commands read STATE and KEY only (spec/44_block_cipher.md R176). -/

theorem commandEffect_block_congr (c : Instr) (hc : c = .encryptBlock ∨ c = .decryptBlock) (r r' : Regs)
    (hs : r.state = r'.state) (hk : r.key = r'.key) :
    (commandEffect c r).state = (commandEffect c r').state ∧ (commandEffect c r).rk = (commandEffect c r').rk := by
  obtain rfl | rfl := hc <;> simp [commandEffect, hs, hk]

/-- Settles O47: both completions are `exec_inFlight`, the results are `commandEffect_block_congr`. -/
theorem blockResultDependsOnStateAndKeyOnly : Obligations.BlockResultDependsOnStateAndKeyOnly :=
  fun s1 s2 c hc hp1 hp2 hs hk =>
    ⟨_, _, exec_inFlight c s1 hp1, exec_inFlight c s2 hp2, commandEffect_block_congr c hc _ _ hs hk⟩

/-! Decryption undoes encryption, and the other way round, under any schedule (spec/44_block_cipher.md R174): each
round of the one takes back the round of the other with the same round key. -/

/-- Decrypting a ciphertext, i rounds have gone back to where round 10 - i of the encryption mixed the columns. -/
theorem decRounds_cipher (w : Vector Word 44) (p : Block) (i : Nat) :
    ∀ j, i + j = 9 → decRounds w (cipher p w) i = shiftRows (subBytes (encRounds w p j)) := by
  induction i with
  | zero =>
    intro j hj
    obtain rfl : j = 9 := by omega
    exact addRoundKey_addRoundKey _ _
  | succ i ih =>
    intro j hj
    have hkey : 9 - i = j + 1 := by omega
    rw [decRounds, hkey, ih (j + 1) (by omega)]
    simp [decRound, encRounds, encRound]

/-- Encrypting a decrypted block, i rounds have gone back to where the decryption still had j rounds behind it. -/
theorem encRounds_invCipher (w : Vector Word 44) (c : Block) (i : Nat) :
    ∀ j, i + j = 9 → encRounds w (invCipher c w) i = invSubBytes (invShiftRows (decRounds w c j)) := by
  induction i with
  | zero =>
    intro j hj
    obtain rfl : j = 9 := by omega
    exact addRoundKey_addRoundKey _ _
  | succ i ih =>
    intro j hj
    have hkey : 9 - j = i + 1 := by omega
    rw [encRounds, ih (j + 1) (by omega), decRounds, hkey]
    simp [decRound, encRound]

@[simp] theorem invCipher_cipher (p : Block) (w : Vector Word 44) : invCipher (cipher p w) w = p := by
  rw [invCipher_eq_decFinal, decRounds_cipher w p 9 0 rfl]
  simp [decFinal, encRounds]

@[simp] theorem cipher_invCipher (c : Block) (w : Vector Word 44) : cipher (invCipher c w) w = c := by
  rw [cipher_eq_encFinal, encRounds_invCipher w c 9 0 rfl]
  simp [encFinal, decRounds]

/-- The two block commands in either order. -/
def blockPairs : List (Instr × Instr) := [(.encryptBlock, .decryptBlock), (.decryptBlock, .encryptBlock)]

/-- On the STATE that a block command left, with the same KEY, the other gives back the STATE before it. -/
theorem commandEffect_blockPair_state (p : Instr × Instr) (hp : p ∈ blockPairs) (r r' : Regs)
    (hs : r'.state = (commandEffect p.1 r).state) (hk : r'.key = r.key) :
    (commandEffect p.2 r').state = r.state := by
  simp only [blockPairs, List.mem_cons, List.not_mem_nil, or_false] at hp
  obtain rfl | rfl := hp <;> simp [commandEffect, hs, hk]

/-- Settles O58: the functions by `invCipher_cipher` and `cipher_invCipher`; a pair of commands by what the second
leaves of the first's STATE, with any steps between (`commandRun_pair`) or none (`inOrder_executed_pair`). -/
theorem decryptionInvertsEncryption : Obligations.DecryptionInvertsEncryption := by
  refine ⟨fun k p => ⟨invCipher_cipher p _, cipher_invCipher p _⟩, fun p hp => ⟨?_, fun s hidle => ?_⟩⟩
  · intro s a b t hfirst hbetween hkey hsecond
    obtain ⟨ht, hb⟩ := commandRun_pair p.1 p.2 s a b t hfirst hbetween hsecond
    obtain ⟨-, -, ha, -⟩ := commandRun_result p.1 s a hfirst
    exact ht.trans (commandEffect_blockPair_state p hp _ _ hb (hkey.trans ha))
  · refine ⟨_, inOrder_executed_pair p.1 p.2 s hidle, (afterCommand_state _ _).trans ?_⟩
    exact commandEffect_blockPair_state p hp _ _ (afterCommand_state p.1 s) (afterCommand_key p.1 s)

/-! The known-answer block (spec/95_test_vectors.md V1, V2). -/

theorem cipher_knownAnswer :
    cipher (blockOfHex 0x00112233445566778899aabbccddeeff#128)
        (expandKey (blockOfHex 0x000102030405060708090a0b0c0d0e0f#128)) =
      blockOfHex 0x69c4e0d86a7b0430d8cdb78070b4c55a#128 := by decide +kernel

/-- Settles O21: the encryption is computed, and the decryption undoes it. -/
theorem knownAnswerBlock : Obligations.KnownAnswerBlock := by
  refine ⟨⟨_, exec_inFlight .encryptBlock _ rfl, cipher_knownAnswer⟩,
    ⟨_, exec_inFlight .decryptBlock _ rfl, ?_⟩⟩
  rw [← cipher_knownAnswer]
  exact invCipher_cipher _ _

end Sys2Proof.Machine

namespace Sys2Proof.Machine

open Sys2Proof.Safety

/-! The sequences of single commands that the block commands are equal to (spec/44_block_cipher.md R175). What a part of
a sequence computes is said of STATE, given the schedule in RK, and the parts are put together from there. -/

theorem inOrder_append (acts acts' : List (State → Host.Outcome State Fault Refusal)) (s t : State)
    (h : inOrder acts s = .next t) : inOrder (acts ++ acts') s = inOrder acts' t := by
  induction acts generalizing s with
  | nil =>
    cases h
    rfl
  | cons f rest ih =>
    rw [inOrder] at h
    rw [List.cons_append, inOrder]
    cases hf : f s with
    | next u =>
      rw [hf] at h
      exact ih u h
    | fault e => simp [hf] at h
    | refused e => simp [hf] at h

/-- With no command in flight, the actions leave none in flight, KEY and RK as they were, and in STATE the value of
`f` at RK and the old STATE. -/
def Computes (acts : List (State → Host.Outcome State Fault Refusal)) (f : Vector Word 44 → Block → Block) : Prop :=
  ∀ s : State, s.phase = .idle → ∃ t, inOrder acts s = .next t ∧ t.phase = .idle ∧ t.key = s.key ∧
    t.rk = s.rk ∧ t.state = f s.rk s.state

theorem Computes.append {acts acts' : List (State → Host.Outcome State Fault Refusal)}
    {f g : Vector Word 44 → Block → Block} (hf : Computes acts f) (hg : Computes acts' g) :
    Computes (acts ++ acts') fun w b => g w (f w b) := by
  intro s hs
  obtain ⟨t, hst, ht, htkey, htrk, htstate⟩ := hf s hs
  obtain ⟨u, htu, hu, hukey, hurk, hustate⟩ := hg t ht
  refine ⟨u, (inOrder_append acts acts' s t hst).trans htu, hu, hukey.trans htkey, hurk.trans htrk, ?_⟩
  rw [hustate, htrk, htstate]

theorem Computes.flatMap {acts : Nat → List (State → Host.Outcome State Fault Refusal)}
    {round : Block → Block → Block} (h : ∀ r, Computes (acts r) fun w b => round b (roundKey w r)) (rs : List Nat) :
    Computes (rs.flatMap acts) fun w b => rs.foldl (fun b r => round b (roundKey w r)) b := by
  induction rs with
  | nil => exact fun s hs => ⟨s, rfl, hs, rfl, rfl, rfl⟩
  | cons r rs ih => exact (h r).append ih

theorem afterCommand_rk_of_writesSchedule (i : Instr) (s : State) (hw : writesSchedule i = true) :
    (afterCommand i s).rk = expandKey s.key := by
  simp [afterCommand, hw]

/-- A command on STATE alone. -/
theorem computes_executed (c : Instr) (f : Block → Block) (hw : writesSchedule c = false)
    (hf : ∀ r, (commandEffect c r).state = f r.state) : Computes [executed c] fun _ b => f b := by
  intro s hs
  refine ⟨afterCommand c s, ?_, rfl, afterCommand_key c s, ?_, (afterCommand_state c s).trans (hf _)⟩
  · simp only [inOrder, executed_idle c s hs]
  · simp [afterCommand, hw]

theorem computes_addRoundKey (r : Nat) :
    Computes [moveRoundKey r, executed .addRoundKey] fun w b => addRoundKey b (roundKey w r) := by
  intro s hs
  refine ⟨afterCommand .addRoundKey { s with rkin := roundKey s.rk r }, ?_, rfl, rfl, rfl, rfl⟩
  have hidle : ({ s with rkin := roundKey s.rk r } : State).phase = .idle := hs
  simp only [inOrder, moveRoundKey, executed_idle .addRoundKey _ hidle]

theorem computes_subBytes : Computes [executed .subBytes] fun _ b => subBytes b :=
  computes_executed .subBytes subBytes rfl fun _ => rfl
theorem computes_shiftRows : Computes [executed .shiftRows] fun _ b => shiftRows b :=
  computes_executed .shiftRows shiftRows rfl fun _ => rfl
theorem computes_mixColumns : Computes [executed .mixColumns] fun _ b => mixColumns b :=
  computes_executed .mixColumns mixColumns rfl fun _ => rfl
theorem computes_invSubBytes : Computes [executed .invSubBytes] fun _ b => invSubBytes b :=
  computes_executed .invSubBytes invSubBytes rfl fun _ => rfl
theorem computes_invShiftRows : Computes [executed .invShiftRows] fun _ b => invShiftRows b :=
  computes_executed .invShiftRows invShiftRows rfl fun _ => rfl
theorem computes_invMixColumns : Computes [executed .invMixColumns] fun _ b => invMixColumns b :=
  computes_executed .invMixColumns invMixColumns rfl fun _ => rfl

theorem computes_encFinal (r : Nat) :
    Computes [executed .subBytes, executed .shiftRows, moveRoundKey r, executed .addRoundKey]
      fun w b => encFinal b (roundKey w r) :=
  (computes_subBytes.append computes_shiftRows).append (computes_addRoundKey r)

theorem computes_encRound (r : Nat) :
    Computes [executed .subBytes, executed .shiftRows, executed .mixColumns, moveRoundKey r, executed .addRoundKey]
      fun w b => encRound b (roundKey w r) :=
  ((computes_subBytes.append computes_shiftRows).append computes_mixColumns).append (computes_addRoundKey r)

theorem computes_decFinal (r : Nat) :
    Computes [executed .invShiftRows, executed .invSubBytes, moveRoundKey r, executed .addRoundKey]
      fun w b => decFinal b (roundKey w r) :=
  (computes_invShiftRows.append computes_invSubBytes).append (computes_addRoundKey r)

theorem computes_decRound (r : Nat) :
    Computes [executed .invShiftRows, executed .invSubBytes, moveRoundKey r, executed .addRoundKey,
        executed .invMixColumns]
      fun w b => decRound b (roundKey w r) :=
  (computes_decFinal r).append computes_invMixColumns

/-- The encryption sequence after EXPAND_KEY. -/
theorem computes_cipher : Computes encryptSequence.tail fun w b => cipher b w :=
  ((computes_addRoundKey 0).append (.flatMap computes_encRound [1, 2, 3, 4, 5, 6, 7, 8, 9])).append
    (computes_encFinal 10)

/-- The decryption sequence after EXPAND_KEY. -/
theorem computes_invCipher : Computes decryptSequence.tail fun w b => invCipher b w :=
  ((computes_addRoundKey 10).append (.flatMap computes_decRound [9, 8, 7, 6, 5, 4, 3, 2, 1])).append
    (computes_decFinal 0)

/-- EXPAND_KEY and then actions that compute what command `c` writes to STATE end as `c` does. -/
theorem expandKey_inOrder_eq_executed (c : Instr) (acts : List (State → Host.Outcome State Fault Refusal))
    (f : Vector Word 44 → Block → Block) (hacts : Computes acts f) (hw : writesSchedule c = true)
    (hf : ∀ r, (commandEffect c r).state = f (expandKey r.key) r.state) (s : State) (hs : s.phase = .idle) :
    ∃ t u, inOrder (executed .expandKey :: acts) s = .next t ∧ executed c s = .next u ∧
      t.state = u.state ∧ t.key = u.key ∧ t.rk = u.rk := by
  obtain ⟨t, hrun, -, hkey, hrk, hstate⟩ := hacts (afterCommand .expandKey s) rfl
  have hexpanded := afterCommand_rk_of_writesSchedule .expandKey s rfl
  refine ⟨t, afterCommand c s, ?_, executed_idle c s hs, ?_, ?_, ?_⟩
  · simpa only [inOrder, executed_idle .expandKey s hs] using hrun
  · rw [hstate, hexpanded, afterCommand_state, afterCommand_state, hf, commandEffect_expandKey_state]
  · rw [hkey, afterCommand_key, afterCommand_key]
  · rw [hrk, hexpanded, afterCommand_rk_of_writesSchedule c s hw]

/-- Settles O59: after EXPAND_KEY the sequences compute `cipher` and `invCipher`. -/
theorem blockCommandsEqualTheirCommandSequences : Obligations.BlockCommandsEqualTheirCommandSequences :=
  fun s hs =>
    ⟨expandKey_inOrder_eq_executed .encryptBlock _ _ computes_cipher rfl (fun _ => rfl) s hs,
      expandKey_inOrder_eq_executed .decryptBlock _ _ computes_invCipher rfl (fun _ => rfl) s hs⟩

end Sys2Proof.Machine

namespace Sys2Proof.Machine

/-! The schedule the reference engine builds, one round key a key step (spec/44_block_cipher.md R180, R183). -/

theorem scheduleWord_of_lt (w : Vector Word 44) (i : Nat) (hi : i < 44) : scheduleWord w i = w[i] :=
  scheduleWord_eq_getElem w ⟨i, hi⟩

theorem scheduleWord_expandKey_next (key : Block) (m : Nat) (hm : m < 40) :
    scheduleWord (expandKey key) (m + 4) =
      nextWord (m + 4) (scheduleWord (expandKey key) m) (scheduleWord (expandKey key) (m + 3)) := by
  rw [scheduleWord_of_lt _ (m + 4) (by omega), scheduleWord_of_lt _ m (by omega),
    scheduleWord_of_lt _ (m + 3) (by omega)]
  exact expandKey_nextWord key m hm

theorem keyStep_roundKey (key : Block) (r : Nat) (hr : r < 10) :
    keyStep (roundKey (expandKey key) r) (r + 1) = roundKey (expandKey key) (r + 1) := by
  have next (j : Nat) (hj : j < 4) := scheduleWord_expandKey_next key (4 * r + j) (by omega)
  have next0 := next 0 (by decide)
  have next1 := next 1 (by decide)
  have next2 := next 2 (by decide)
  have next3 := next 3 (by decide)
  simp only [Nat.add_zero, Nat.add_assoc, Nat.reduceAdd] at next0 next1 next2 next3
  simp only [keyStep, roundKey, Nat.mul_add, Nat.add_assoc, Nat.reduceMul, Nat.reduceAdd, next0, next1, next2, next3]

/-- A word of `w` written at its own place. -/
theorem getElem_setIfInBounds_scheduleWord (v w : Vector Word 44) (j i : Nat) (hi : i < 44) :
    (v.setIfInBounds j (scheduleWord w j))[i] = if j = i then w[i] else v[i] := by
  rw [Vector.getElem_setIfInBounds]
  split
  next h => rw [h, scheduleWord_of_lt w i hi]
  next => rfl

theorem getElem_setRoundKey (v w : Vector Word 44) (r i : Nat) (hi : i < 44) :
    (setRoundKey v r (roundKey w r))[i] = if i / 4 = r then w[i] else v[i] := by
  have hplaces : i / 4 = r ↔ 4 * r + 3 = i ∨ 4 * r + 2 = i ∨ 4 * r + 1 = i ∨ 4 * r = i := by omega
  simp only [setRoundKey, roundKey, getElem_setIfInBounds_scheduleWord, hplaces, ite_or]

/-- The register `rk` is round key m, and so far the schedule is written up to it. -/
structure HoldsKeys (key : Block) (m : Nat) (k : Block) (v : Vector Word 44) : Prop where
  rkReg : k = roundKey (expandKey key) m
  words : ∀ (i : Nat) (hi : i < 44), i / 4 ≤ m → v[i] = (expandKey key)[i]

theorem HoldsKeys.zero (key : Block) (v : Vector Word 44) : HoldsKeys key 0 key (setRoundKey v 0 key) := by
  have hkey : roundKey (expandKey key) 0 = key :=
    roundKey_zero_of_isScheduleOf key _ (isScheduleOf_expandKey key)
  refine ⟨hkey.symm, fun i hi him => ?_⟩
  have hword := getElem_setRoundKey v (expandKey key) 0 i hi
  rwa [hkey, if_pos (Nat.le_zero.mp him)] at hword

theorem HoldsKeys.next {key : Block} {m : Nat} {k : Block} {v : Vector Word 44} (h : HoldsKeys key m k v)
    (hm : m < 10) : HoldsKeys key (m + 1) (keyStep k (m + 1)) (setRoundKey v (m + 1) (keyStep k (m + 1))) := by
  have hkey := keyStep_roundKey key m hm
  rw [← h.rkReg] at hkey
  refine ⟨hkey, fun i hi him => ?_⟩
  rw [hkey, getElem_setRoundKey]
  split
  · rfl
  · exact h.words i hi (by omega)

theorem HoldsKeys.rk_eq {key k : Block} {v : Vector Word 44} (h : HoldsKeys key 10 k v) : v = expandKey key :=
  Vector.ext fun i hi => h.words i hi (by omega)

/-! The engine's run, cycle by cycle (spec/44_block_cipher.md R181 to R185). -/

theorem refRun_eq_iterate (n : Nat) (e : RefEngine) : refRun n e = refCycle^[n] e := by
  induction n generalizing e with
  | zero => rfl
  | succ n ih => exact ih (refCycle e)

theorem refRun_succ (n : Nat) (e : RefEngine) : refRun (n + 1) e = refCycle (refRun n e) := by
  rw [refRun_eq_iterate, refRun_eq_iterate, Function.iterate_succ_apply']

theorem refBusy_eq_true_iff (e : RefEngine) : refBusy e = true ↔ e.fsm ≠ .idle := by
  cases h : e.fsm <;> simp [refBusy, h]

/-- Only the cycle that ends a command writes DONE and RKV, and a command that has ended does not go on. -/
theorem refCycle_running (e : RefEngine) (h : (refCycle e).fsm ≠ .idle) :
    e.fsm ≠ .idle ∧ (refCycle e).done = e.done ∧ (refCycle e).rkv = e.rkv := by
  cases hf : e.fsm with
  | idle => simp [refCycle, hf] at h
  | xf c => simp [refCycle, hf, refFinish] at h
  | kx r =>
    by_cases hr : r = 10
    · simp [refCycle, hf, hr, refFinishSchedule, refFinish] at h
    · simp [refCycle, hf, hr, refKeyStep]
  | en r =>
    by_cases h0 : r = 0
    · simp [refCycle, hf, h0]
    · by_cases hr : r = 10
      · simp [refCycle, hf, hr, refFinishSchedule, refFinish] at h
      · simp [refCycle, hf, h0, hr, refKeyStep]
  | dk r => simp [refCycle, hf, refKeyStep]
  | de r =>
    by_cases hr : r = 10
    · simp [refCycle, hf, hr]
    · by_cases h0 : r = 0
      · simp [refCycle, hf, h0, refFinishSchedule, refFinish] at h
      · simp [refCycle, hf, hr, h0]

/-- An engine still running after m cycles was running all the time, with DONE and RKV as they were at the start. -/
theorem refRun_running (e : RefEngine) (m : Nat) (h : (refRun m e).fsm ≠ .idle) :
    ∀ n ≤ m, (refRun n e).fsm ≠ .idle ∧ (refRun n e).done = e.done ∧ (refRun n e).rkv = e.rkv := by
  induction m with
  | zero =>
    intro n hn
    obtain rfl := Nat.le_zero.mp hn
    exact ⟨h, rfl, rfl⟩
  | succ m ih =>
    intro n hn
    have hlast := h
    rw [refRun_succ] at hlast
    obtain ⟨hprev, hdone, hrkv⟩ := refCycle_running _ hlast
    obtain hn | rfl := Nat.le_succ_iff.mp hn
    · exact ih hprev n hn
    · obtain ⟨-, hdone', hrkv'⟩ := ih hprev m le_rfl
      rw [refRun_succ]
      exact ⟨hlast, hdone.trans hdone', hrkv.trans hrkv'⟩

/-- The engine has ended its command, with block `b` in STATE, schedule `v` in RK and `rkv` in RKV. -/
structure Ended (b : Block) (v : Vector Word 44) (rkv : Bool) (e : RefEngine) : Prop where
  fsm : e.fsm = .idle
  done : e.done = true
  state : e.state = b
  rk : e.rk = v
  rkv : e.rkv = rkv

/-- The engine started as `e` runs for n cycles, the last of which ends the command with STATE, RK and RKV of `r`. -/
def EndsAfter (n : Nat) (e : RefEngine) (r : Regs) : Prop :=
  ∃ m, n = m + 1 ∧ (refRun m e).fsm ≠ .idle ∧ Ended r.state r.rk r.rkv (refRun n e)

theorem transform_endsAfter (c : Instr) (r : Regs) (hw : writesSchedule c = false) :
    EndsAfter (Config.referenceLatency c) (refAccept c r) (commandEffect c r) := by
  cases c with
  | expandKey | encryptBlock | decryptBlock => contradiction
  | _ => exact ⟨0, rfl, nofun, rfl, rfl, rfl, rfl, rfl⟩

/-- The engine is in FSM state `fsm` with block `b` in STATE, and has the round keys up to m. -/
structure AtRound (key : Block) (m : Nat) (fsm : RefFsm) (b : Block) (e : RefEngine) : Prop where
  fsm : e.fsm = fsm
  state : e.state = b
  keys : HoldsKeys key m e.rkReg e.rk

section
variable {key b : Block} {fsm : RefFsm} {e : RefEngine} {m : Nat}

/-- A key step, whatever becomes of the FSM state and of STATE in the same cycle. -/
theorem AtRound.stepKeys (h : AtRound key m fsm b e) (hm : m < 10) (fsm' : RefFsm) (b' : Block) :
    AtRound key (m + 1) fsm' b' { refKeyStep (m + 1) e with fsm := fsm', state := b' } :=
  ⟨rfl, rfl, h.keys.next hm⟩

theorem AtRound.ended (h : AtRound key 10 fsm b e) : Ended b (expandKey key) true (refFinishSchedule e) :=
  ⟨rfl, rfl, h.state, h.keys.rk_eq, rfl⟩

/-- The round key that a key step makes is that of the schedule. -/
theorem AtRound.keyStep_rkReg (h : AtRound key m fsm b e) (hm : m < 10) :
    keyStep e.rkReg (m + 1) = roundKey (expandKey key) (m + 1) := (h.keys.next hm).rkReg

theorem AtRound.refCycle_kx (h : AtRound key m (.kx (m + 1)) b e) (hm : m < 9) :
    AtRound key (m + 1) (.kx (m + 2)) b (refCycle e) := by
  have hcycle : refCycle e = { refKeyStep (m + 1) e with fsm := .kx (m + 2), state := b } := by
    simp [refCycle, h.fsm, hm.ne, ← h.state, refKeyStep]
  exact hcycle ▸ h.stepKeys (by omega) _ _

theorem AtRound.refCycle_kx_last (h : AtRound key 9 (.kx 10) b e) :
    Ended b (expandKey key) true (refCycle e) := by
  have hcycle : refCycle e = refFinishSchedule { refKeyStep 10 e with fsm := .kx 10, state := b } := by
    simp [refCycle, h.fsm, ← h.state, refKeyStep]
  exact hcycle ▸ (h.stepKeys (by decide) _ _).ended

theorem AtRound.refCycle_en (h : AtRound key m (.en (m + 1)) b e) (hm : m < 9) :
    AtRound key (m + 1) (.en (m + 2)) (encRound b (roundKey (expandKey key) (m + 1))) (refCycle e) := by
  have hcycle : refCycle e = { refKeyStep (m + 1) e with
      fsm := .en (m + 2), state := encRound b (roundKey (expandKey key) (m + 1)) } := by
    simp [refCycle, h.fsm, hm.ne, h.state, h.keyStep_rkReg (by omega)]
  exact hcycle ▸ h.stepKeys (by omega) _ _

theorem AtRound.refCycle_en_last (h : AtRound key 9 (.en 10) b e) :
    Ended (encFinal b (roundKey (expandKey key) 10)) (expandKey key) true (refCycle e) := by
  have hcycle : refCycle e = refFinishSchedule { refKeyStep 10 e with
      fsm := .en 10, state := encFinal b (roundKey (expandKey key) 10) } := by
    simp [refCycle, h.fsm, h.state, h.keyStep_rkReg (by decide), refKeyStep]
  exact hcycle ▸ (h.stepKeys (by decide) _ _).ended

theorem AtRound.refCycle_dk (h : AtRound key m (.dk (m + 1)) b e) (hm : m < 9) :
    AtRound key (m + 1) (.dk (m + 2)) b (refCycle e) := by
  have hcycle : refCycle e = { refKeyStep (m + 1) e with fsm := .dk (m + 2), state := b } := by
    simp [refCycle, h.fsm, hm.ne, ← h.state, refKeyStep]
  exact hcycle ▸ h.stepKeys (by omega) _ _

theorem AtRound.refCycle_dk_last (h : AtRound key 9 (.dk 10) b e) :
    AtRound key 10 (.de 10) b (refCycle e) := by
  have hcycle : refCycle e = { refKeyStep 10 e with fsm := .de 10, state := b } := by
    simp [refCycle, h.fsm, ← h.state, refKeyStep]
  exact hcycle ▸ h.stepKeys (by decide) _ _

theorem AtRound.refCycle_de_first (h : AtRound key 10 (.de 10) b e) :
    AtRound key 10 (.de 9) (addRoundKey b (roundKey (expandKey key) 10)) (refCycle e) := by
  have hcycle : refCycle e = { e with
      state := addRoundKey b (roundKey (expandKey key) 10), fsm := .de 9 } := by
    simp [refCycle, h.fsm, h.state, h.keys.rk_eq]
  exact hcycle ▸ ⟨rfl, rfl, h.keys⟩

theorem AtRound.refCycle_de (h : AtRound key 10 (.de (m + 1)) b e) (hm : m < 9) :
    AtRound key 10 (.de m) (decRound b (roundKey (expandKey key) (m + 1))) (refCycle e) := by
  have hcycle : refCycle e = { e with
      state := decRound b (roundKey (expandKey key) (m + 1)), fsm := .de m } := by
    simp [refCycle, h.fsm, hm.ne, h.state, h.keys.rk_eq]
  exact hcycle ▸ ⟨rfl, rfl, h.keys⟩

theorem AtRound.refCycle_de_last (h : AtRound key 10 (.de 0) b e) :
    Ended (decFinal b (roundKey (expandKey key) 0)) (expandKey key) true (refCycle e) := by
  have hcycle : refCycle e = refFinishSchedule { e with
      state := decFinal b (roundKey (expandKey key) 0) } := by
    simp [refCycle, h.fsm, h.state, h.keys.rk_eq]
  exact hcycle ▸ ⟨rfl, rfl, rfl, h.keys.rk_eq, rfl⟩

end

/-! The three commands that write the schedule, from acceptance to their last cycle. -/

theorem expandKey_atRound (r : Regs) (n : Nat) (hn : n ≤ 9) :
    AtRound r.key n (.kx (n + 1)) r.state (refRun n (refAccept .expandKey r)) := by
  induction n with
  | zero => exact ⟨rfl, rfl, .zero r.key r.rk⟩
  | succ n ih =>
    rw [refRun_succ]
    exact (ih (by omega)).refCycle_kx (by omega)

theorem expandKey_endsAfter (r : Regs) :
    EndsAfter 10 (refAccept .expandKey r) (commandEffect .expandKey r) := by
  have h := expandKey_atRound r 9 le_rfl
  refine ⟨9, rfl, by simp [h.fsm], ?_⟩
  rw [refRun_succ]
  exact h.refCycle_kx_last

/-- The cycle of `EN(0)` comes before the first of these. -/
theorem encryptBlock_atRound (r : Regs) (n : Nat) (hn : n ≤ 9) :
    AtRound r.key n (.en (n + 1)) (encRounds (expandKey r.key) r.state n)
      (refRun (n + 1) (refAccept .encryptBlock r)) := by
  induction n with
  | zero =>
    have hkeys := HoldsKeys.zero r.key r.rk
    refine ⟨rfl, ?_, hkeys⟩
    rw [encRounds, ← hkeys.rkReg]
    rfl
  | succ n ih =>
    rw [refRun_succ]
    exact (ih (by omega)).refCycle_en (by omega)

theorem encryptBlock_endsAfter (r : Regs) :
    EndsAfter 11 (refAccept .encryptBlock r) (commandEffect .encryptBlock r) := by
  have h := encryptBlock_atRound r 9 le_rfl
  refine ⟨10, rfl, by simp [h.fsm], ?_⟩
  rw [refRun_succ]
  exact h.refCycle_en_last

theorem decryptBlock_atKeyPass (r : Regs) (n : Nat) (hn : n ≤ 9) :
    AtRound r.key n (.dk (n + 1)) r.state (refRun n (refAccept .decryptBlock r)) := by
  induction n with
  | zero => exact ⟨rfl, rfl, .zero r.key r.rk⟩
  | succ n ih =>
    rw [refRun_succ]
    exact (ih (by omega)).refCycle_dk (by omega)

/-- The ten cycles of the key pre-pass and the cycle of `DE(10)` come before the first of these. -/
theorem decryptBlock_atRound (r : Regs) (n m : Nat) (hn : n + m = 9) :
    AtRound r.key 10 (.de m) (decRounds (expandKey r.key) r.state n)
      (refRun (n + 11) (refAccept .decryptBlock r)) := by
  induction n generalizing m with
  | zero =>
    obtain rfl : m = 9 := by omega
    have h := (decryptBlock_atKeyPass r 9 le_rfl).refCycle_dk_last.refCycle_de_first
    rwa [← refRun_succ, ← refRun_succ] at h
  | succ n ih =>
    have hkey : 9 - n = m + 1 := by omega
    rw [Nat.add_right_comm, refRun_succ, decRounds, hkey]
    exact (ih (m + 1) (by omega)).refCycle_de (by omega)

theorem decryptBlock_endsAfter (r : Regs) :
    EndsAfter 21 (refAccept .decryptBlock r) (commandEffect .decryptBlock r) := by
  have h := decryptBlock_atRound r 9 0 rfl
  refine ⟨20, rfl, by simp [h.fsm], ?_⟩
  rw [refRun_succ]
  exact h.refCycle_de_last

/-- The reference engine ends each command after its reference latency with the effect of the command. -/
theorem refEngine_endsAfter (c : Instr) (r : Regs) :
    EndsAfter (Config.referenceLatency c) (refAccept c r) (commandEffect c r) := by
  cases c with
  | expandKey => exact expandKey_endsAfter r
  | encryptBlock => exact encryptBlock_endsAfter r
  | decryptBlock => exact decryptBlock_endsAfter r
  | _ => exact transform_endsAfter _ r rfl

theorem refAccept_acceptFlags (c : Instr) (r : Regs) : refAccept c (acceptFlags c r) = refAccept c r := by
  cases c <;> rfl

theorem refAccept_fsm_ne_idle (c : Instr) (r : Regs) : (refAccept c r).fsm ≠ .idle := by
  cases c <;> nofun

/-- Settles O60: while the engine runs it writes neither DONE nor RKV (`refRun_running`), and it ends with the effect of
the command (`refEngine_endsAfter`); acceptance writes only flags that the engine sets at its start. -/
theorem referenceFsmMeetsTheContract : Obligations.ReferenceFsmMeetsTheContract := by
  refine ⟨fun c s hp => ?_, fun c s hp => ?_⟩
  · obtain ⟨m, hm, hrunning, hended⟩ := refEngine_endsAfter c s.toRegs
    refine ⟨?_, _, exec_inFlight c s hp, ?_⟩
    · rintro n hn e rfl
      obtain ⟨hfsm, hdone, hrkv⟩ := refRun_running _ m hrunning n (by omega)
      exact ⟨hfsm, (refBusy_eq_true_iff _).mpr hfsm, hdone, hrkv⟩
    · rintro e rfl
      have hbusy := mt (refBusy_eq_true_iff _).mp (not_not_intro hended.fsm)
      exact ⟨hended.fsm, eq_false_of_ne_true hbusy, hended.done, hended.done, hended.rkv, hended.state,
        hended.rk⟩
  · exact ⟨_, exec_idle c s hp, (refAccept_acceptFlags c s.toRegs).symm,
      (refBusy_eq_true_iff _).mpr (refAccept_fsm_ne_idle c s.toRegs), rfl, rfl⟩

end Sys2Proof.Machine

namespace Sys2Proof.Machine

open Sys2Proof.Safety

/-! Command errors and the code they leave (spec/60_exceptions.md R201, R202). -/

theorem raiseCmdError_of_noError (e : CmdError) (r : Regs) (h : r.err = false) :
    raiseCmdError e r = { r with err := true, errCode := errorCode e } := by
  simp [raiseCmdError, h]

theorem raiseCmdError_of_error (e : CmdError) (r : Regs) (h : r.err = true) :
    raiseCmdError e r = r := by
  cases r
  simp_all [raiseCmdError]

/-- Settles O32: without an error held the code of the new one is recorded, with one nothing is. -/
theorem firstErrorCodeIsKept : Obligations.FirstErrorCodeIsKept := fun r =>
  ⟨fun h => ⟨raiseCmdError_of_noError .illegalCmd r h, raiseCmdError_of_noError .busyViolation r h⟩,
    fun h e => raiseCmdError_of_error e r h⟩

theorem errorCodeInv_reset : errorCodeInv Regs.reset := .inl rfl

theorem errorCodeInv_of_errCode_eq {r r' : Regs} (h : r'.errCode = r.errCode) (hr : errorCodeInv r) :
    errorCodeInv r' := by
  rwa [errorCodeInv, h]

theorem errorCodeInv_of_errCode_eq_errorCode {r : Regs} (e : CmdError) (h : r.errCode = errorCode e) :
    errorCodeInv r := by
  cases e with
  | illegalCmd => exact .inr (.inl h)
  | busyViolation => exact .inr (.inr h)

/-- ERRCODE changes by two events only: a STATUS write that clears it, and a command error, whose code is recorded
where none is held. -/
theorem errorCodeInv_of_coreEvent (s t : State) (hs : errorCodeInv s.toRegs) (h : CoreEvent s t) :
    errorCodeInv t.toRegs := by
  by_cases hsame : t.errCode = s.errCode
  · exact errorCodeInv_of_errCode_eq hsame hs
  · obtain ⟨v, -, -, -, hclear⟩ | ⟨e, -, -, hcode⟩ := h.err_change (.inr hsame)
    · exact .inl hclear
    · have hfree : ¬ s.err = true := fun hheld => hsame (hcode.trans (if_pos hheld))
      exact errorCodeInv_of_errCode_eq_errorCode e (hcode.trans (if_neg hfree))

/-- Settles O42: `errorCodeInv` holds at reset and each event of the core keeps it. -/
theorem stepKeepsErrorCodeDefined : Obligations.StepKeepsErrorCodeDefined :=
  invariant_of_coreEvent errorCodeInv errorCodeInv_reset errorCodeInv_of_coreEvent

end Sys2Proof.Machine

namespace Sys2Proof.Machine

open Sys2Proof.Safety

/-! Reset: what each turn answers while the pin is low or as it falls (spec/70_reset_and_hazards.md R230 to R232). -/

/-- Where the pin is low after a step, `step_core` leaves only the reset values. -/
theorem resetInv_of_step (s t : State) (h : step s = .next t) : resetInv t := by
  intro hlow
  obtain ⟨ht, -⟩ | ⟨-, hhigh, -⟩ := step_core s t h
  · exact ht
  · exact absurd (hlow.symm.trans hhigh) Bool.false_ne_true

/-- Settles O43: every step answers a state with `resetInv`, whatever it came from. -/
theorem stepHoldsTheCoreInReset : Obligations.StepHoldsTheCoreInReset :=
  ⟨fun _ => rfl, fun s t _ h => resetInv_of_step s t h⟩

theorem loseAccess_cons (s : State) (op : HostOp) (rest : List HostOp) (hn : s.rstN = true)
    (hh : s.host = op :: rest) : loseAccess s = { s with host := rest, log := .lost :: s.log } := by
  simp only [loseAccess, hh, if_pos hn]
  rfl

theorem loseAccess_of_nothingToLose (s : State) (h : s.host = [] ∨ s.rstN = false) : loseAccess s = s := by
  unfold loseAccess
  split
  · rfl
  · next hh => exact if_neg (by simpa [hh] using h)

@[simp] theorem loseAccess_sched (s : State) : (loseAccess s).sched = s.sched := by
  unfold loseAccess
  split
  · rfl
  · split <;> rfl

/-- While the pin is low every turn holds the core at its reset values, and the release also raises the pin. -/
theorem takeTurn_inReset (u : Turn) (s : State) (hn : s.rstN = false) :
    takeTurn u s = .next { s with toRegs := Regs.reset, rstN := decide (u = .resetRelease) } := by
  have hclear : ¬ s.rstN = true := by simp [hn]
  cases u with
  | host => rw [takeTurn, reqReady, if_neg hclear, resetRegs, hn]; rfl
  | engine => rw [takeTurn, if_neg hclear, resetRegs, hn]; rfl
  | resetAssert => rfl
  | resetLosingAccess => rw [takeTurn, loseAccess_of_nothingToLose s (.inr hn)]; rfl
  | resetRelease => rw [takeTurn, releaseReset, if_neg hclear]; rfl

theorem step_inReset (s : State) (hn : s.rstN = false) :
    step s = .next { s with
      toRegs := Regs.reset, rstN := decide (turnOf s = .resetRelease), sched := s.sched.tail } :=
  takeTurn_inReset (turnOf s) { s with sched := s.sched.tail } hn

/-- A turn that is not the release leaves the pin low. -/
theorem step_inReset_of_ne_release (s : State) (hn : s.rstN = false) (hu : turnOf s ≠ .resetRelease) :
    step s = .next { s with toRegs := Regs.reset, sched := s.sched.tail } := by
  rw [step_inReset s hn, decide_eq_false hu, hn]

theorem step_inReset_cons (s : State) (u : Turn) (ts : List Turn) (hn : s.rstN = false)
    (hs : s.sched = u :: ts) (hu : u ≠ .resetRelease) :
    step s = .next { s with toRegs := Regs.reset, sched := ts } := by
  rw [step_inReset_of_ne_release s hn (by rwa [turnOf_cons s u ts hs]), hs, List.tail_cons]

/-- With no turn given none is the pin's. -/
theorem turnOf_nil_ne_release (s : State) (hs : s.sched = []) : turnOf s ≠ .resetRelease := by
  cases hp : s.phase with
  | idle => rw [turnOf_nil_idle s hs hp]; nofun
  | busy c => rw [turnOf_nil_busy s c hs hp]; nofun

/-- Settles O38: the turns of the pin are computed; out of reset a command leaves the engine only by completing,
with DONE 1 (`operandsHeldWhileBusy`). -/
theorem resetAbandonsTheCommand : Obligations.ResetAbandonsTheCommand := by
  refine fun s ts => ⟨fun hs => step_cons s _ ts hs, fun hs => ?_, fun hs hn => ?_, ?_, ?_⟩
  · exact ⟨_, step_cons s _ ts hs, rfl, rfl, loseAccess_sched _⟩
  · rw [step_inReset s hn, turnOf_cons s _ ts hs, hs]
    rfl
  · exact ⟨rfl, rfl, rfl, rfl, rfl, rfl, rfl, rfl, rfl, fun i => Vector.getElem_replicate i.isLt⟩
  · intro t c hp h hleft hdone
    by_contra hout
    simp only [not_or, Bool.not_eq_false] at hout
    obtain ⟨hs, ht⟩ := hout
    obtain ⟨-, -, ⟨hstill, -⟩ | ⟨-, hcompleted⟩⟩ := operandsHeldWhileBusy s t c hp h hs ht
    · exact hleft hstill
    · exact Bool.false_ne_true (hdone.symm.trans hcompleted)

/-- Settles O39: with the pin low each clause is `step_inReset`; as it falls, `loseAccess` says what is lost. -/
theorem noServiceWhileInReset : Obligations.NoServiceWhileInReset := by
  refine fun s ts op hs => ⟨fun hn ht => step_inReset_cons s _ ts hn ht nofun,
    fun hn ht => step_inReset_cons s _ ts hn ht nofun, fun hn hh ht => ?_, fun h ht => ?_, fun hn ht => ?_,
    fun hn => ⟨_, step_inReset s hn, rfl, rfl, rfl, rfl, rfl⟩⟩
  · rw [step_cons s _ ts ht, takeTurn, loseAccess_cons { s with sched := ts } op hs hn hh]
    rfl
  · rw [step_cons s _ ts ht, takeTurn, loseAccess_of_nothingToLose { s with sched := ts } h]
    rfl
  · rw [step_inReset_of_ne_release s hn (turnOf_nil_ne_release s ht), ht, List.tail_nil, ← ht]

/-! The test of an accepted command by ERR (spec/70_reset_and_hazards.md R239). -/

/-- Settles O48: a CMD write with a command in flight (O9) and one of an illegal word (O8) set ERR, which leaves the
acceptance of O7. -/
theorem noErrorAfterCommandWriteMeansAccepted : Obligations.NoErrorAfterCommandWriteMeansAccepted := by
  intro s t v _ h herr
  cases hp : s.phase with
  | busy c =>
    rw [commandWriteWhileBusyIsDiscarded s v c hp] at h
    cases h
    cases herr
  | idle =>
    cases hd : decode v with
    | error why =>
      rw [illegalWordIsRecordedAndStartsNothing s v why hp hd] at h
      cases h
      cases herr
    | ok i =>
      rw [busAccess_commandWrite s v i hp hd, exec_idle i s hp] at h
      cases h
      exact ⟨rfl, i, rfl, rfl, rfl⟩

end Sys2Proof.Machine
